-- ==== Sys2Proof/Word.lean ====
section
/-!
DEFINITION. The value widths of the block: `u8`, `u64` and `u128` of 00_scope.md R7.
-/

namespace Sys2Proof

/-- A `u8`: one byte of a byte string (R9). -/
abbrev Byte := BitVec 8

/-- A `u64`: one register or scratch word (R7). -/
abbrev Word := BitVec 64

/-- A `u128`: the value of `combine(hi, lo)` (R8). -/
abbrev DWord := BitVec 128

end Sys2Proof
end

