-- ==== Sys2Proof/Config.lean ====
section
/-!
DEFINITION. The parameters of 00_scope.md R5. An `OPEN` parameter is an opaque constant with no
body: nothing can be proved of it but what its type says. The others have the value R5 gives.
-/

namespace Sys2Proof.Config

/-- `Hash32(s)` (R11, 92 D29, 93 U14): the external hash, `OPEN`. Its internals are out of scope
(R4); only "32 bytes" and "deterministic" are known. -/
opaque hash32 : List Byte → Vector Byte 32

/-- `ChaCha8(key, nonce, n)` (R12, 92 D14, 93 U14): the external 8-round keystream generator,
`OPEN`. Only "n bytes" and "deterministic" are known. -/
opaque chaCha8 : List Byte → List Byte → (n : Nat) → Vector Byte n

/-- The seed of the `OPEN` size `M` (R5, 92 D3): any natural number. -/
opaque sizeSeed : Nat

/-- `M` (R5, 92 D3): every even number from 6 to `2^32 - 2` and no other, according to the seed.
DESIGN CHOICE of form (log 1); no value is chosen. -/
def memWords : Nat := 2 * (3 + sizeSeed % (2 ^ 31 - 3))

/-- The contents a scratch byte holds when nothing is listed for it (92 "initial scratch contents",
93 U1): any value. Never observed by a run (log 12). -/
opaque initialScratch : Nat → Byte

/-- The value the `n`-th host read of an unwritten scratch word returns (93 U1: "may return any
`u64`, and two reads need not agree"): free (log 11). -/
opaque unwrittenRead : Nat → Word

/-- `ITERS` (R5): outer rounds of Stage 3. -/
def iters : Nat := 3

/-- `VERSION` (R5, R20). -/
def version : Nat := 0x02

/-- `H` (R5): half the scratch memory, in words. -/
def half (m : Nat) : Nat := m / 2

/-- `O` (R5): the scratch memory in bytes. -/
def sizeBytes (m : Nat) : Nat := 8 * m

/-- `SEG` (R5): bytes of one Stage 1 segment, `O / 4`. -/
def segBytes (m : Nat) : Nat := sizeBytes m / 4

/-- `NONCELEN` (R5): bytes of a keystream nonce. -/
def nonceLen : Nat := 12

end Sys2Proof.Config
end

