-- ==== Sys2Proof/Syntax.lean ====
section
/-!
DEFINITION. The commands of 30_encoding.md R54, one constructor per row of spec/opcode_table.json,
the fields of a command word, and the host's accesses of 20_memory.md R40.
-/

namespace Sys2Proof

/-- A command. "There are no register fields: each command reads and writes fixed registers" (R50),
so no constructor has an operand; a `MIXOP.k` is one constructor for each `k` (R52). -/
inductive Instr where
  | nop
  | rotl
  | rotr
  | div128
  | udiv
  | isqrt
  | mulhi
  | mulhi128
  | divw
  | mixop0
  | mixop1
  | mixop2
  | mixop3
  | mixop4
  | mixop5
  | mixop6
  | mixop7
  | mixop8
  | mixop9
  | mixop10
  | mixop11
  | mixop12
  | mixop13
  | mixop14
  | mixop15
  | mixauto
  | expand
  | mixpass
  | finalize
  | hash
  deriving DecidableEq, Repr

/-- The three fields of a command word (R50). -/
structure CmdFields where
  /-- `OPC`, bits 7:0. -/
  opc : BitVec 8
  /-- `SEL`, bits 11:8. -/
  sel : BitVec 4
  /-- `RES`, bits 63:12. -/
  res : BitVec 52
  deriving DecidableEq, Repr

/-- A host access: one whole 64-bit word, by CSR index (7 bits) or scratch index (32 bits)
(20_memory.md R39, R40). -/
inductive Access where
  /-- `MemRead({CSR, idx}, 8)`. -/
  | csrRead (idx : BitVec 7)
  /-- `MemWrite({CSR, idx}, 8, v)`. -/
  | csrWrite (idx : BitVec 7) (v : Word)
  /-- `MemRead({SPM, k}, 8)`. -/
  | spmRead (k : BitVec 32)
  /-- `MemWrite({SPM, k}, 8, v)`. -/
  | spmWrite (k : BitVec 32) (v : Word)
  deriving DecidableEq, Repr

/-- The registers of the CSR map (10_state.md R19). -/
inductive CsrReg where
  | caps
  | status
  | cmd
  | ctrl
  | errinfo
  | nonceLo
  | nonceHi
  /-- `X0` to `X6`. -/
  | x (n : Fin 7)
  /-- `Y0` to `Y3`. -/
  | y (n : Fin 4)
  /-- `IN0` to `IN13`. -/
  | inp (n : Fin 14)
  /-- `SK0` to `SK15`. -/
  | sk (n : Fin 16)
  /-- `AK0`, `AK1`. -/
  | ak (n : Fin 2)
  /-- `DG0` to `DG3`. -/
  | dg (n : Fin 4)
  /-- A reserved index (R30). -/
  | reserved
  deriving DecidableEq, Repr

/-- One line of a host program that is not host control flow (30_encoding.md R57, R58). -/
inductive HostLine where
  /-- `csrw NAME, imm`, by the register's index. -/
  | csrw (idx : BitVec 7) (imm : Word)
  /-- `csrr NAME -> v`. -/
  | csrr (idx : BitVec 7)
  /-- `spw k, imm`. -/
  | spw (k : BitVec 32) (imm : Word)
  /-- `spr k -> v`. -/
  | spr (k : BitVec 32)
  /-- A command's own mnemonic. -/
  | command (i : Instr)
  /-- `li Xn, imm`. -/
  | li (n : Fin 7) (imm : Word)
  /-- One turn of the loop `wait` expands to. -/
  | poll
  /-- `clrdone`, with the value of IE that it keeps. -/
  | clrdone (ie : Bool)
  /-- `srst`. -/
  | srst
  /-- `ldkey k0, k1`. -/
  | ldkey (k0 k1 : Word)
  deriving DecidableEq, Repr

end Sys2Proof
end

