-- ==== Sys2Proof/WellFormed.lean ====
section
/-!
DEFINITION. What makes a command word's fields legal (30_encoding.md R53 to R56) and a size `M`
legal (00_scope.md R5). A constructor of `Instr` has no operand, so an `Instr` is well formed by
its type; a host access is well formed by its type too (R39, R40).
-/

namespace Sys2Proof

/-- The OPC column of R54. -/
def opcColumn : List (BitVec 8) :=
  [0x00, 0x01, 0x02, 0x03, 0x04, 0x05, 0x06, 0x07, 0x08, 0x10, 0x11, 0x20, 0x21, 0x22, 0x23]

/-- R53: RES is 0. -/
def CmdFields.resZero (f : CmdFields) : Bool := f.res == 0

/-- R54, R55: OPC is in the OPC column. -/
def CmdFields.opcDefined (f : CmdFields) : Bool := opcColumn.contains f.opc

/-- R50, R55: SEL is 0 for every OPC but MIXOP's. -/
def CmdFields.selAllowed (f : CmdFields) : Bool := f.opc == 0x10 || f.sel == 0

/-- R55: a command word that is not illegal. -/
def CmdFields.wf (f : CmdFields) : Bool := f.resZero && f.opcDefined && f.selAllowed

/-- R5, 92 D3: the halves of the scratch memory are equal. -/
def Config.sizeEven (m : Nat) : Bool := m % 2 == 0

/-- R5, R107: every segment holds a nonce. -/
def Config.sizeAtLeast (m : Nat) : Bool := decide (6 ≤ m)

/-- R5, R20: `M` fits CAPS.MEMWORDS and a scratch index. -/
def Config.sizeBelow (m : Nat) : Bool := decide (m < 2 ^ 32)

/-- R5: a legal scratch size. -/
def Config.validSize (m : Nat) : Bool :=
  Config.sizeEven m && Config.sizeAtLeast m && Config.sizeBelow m

end Sys2Proof
end

