-- ==== Sys2Proof/Decode.lean ====
section
/-!
DEFINITION. Decoding a word written to CMD, total over all 64-bit words (30_encoding.md R55), and
the encoder, written from the encoding column of R54.
-/

namespace Sys2Proof

/-- The fields of a command word (R50). -/
def CmdFields.ofWord (w : Word) : CmdFields where
  opc := w.extractLsb' 0 8
  sel := w.extractLsb' 8 4
  res := w.extractLsb' 12 52

/-- The command word with the given fields (R50). -/
def CmdFields.toWord (f : CmdFields) : Word := f.res ++ f.sel ++ f.opc

/-- `MIXOP.k` for `k = SEL` (R52). -/
def decodeMixop (sel : BitVec 4) : Instr :=
  match sel.toNat with
  | 0 => .mixop0
  | 1 => .mixop1
  | 2 => .mixop2
  | 3 => .mixop3
  | 4 => .mixop4
  | 5 => .mixop5
  | 6 => .mixop6
  | 7 => .mixop7
  | 8 => .mixop8
  | 9 => .mixop9
  | 10 => .mixop10
  | 11 => .mixop11
  | 12 => .mixop12
  | 13 => .mixop13
  | 14 => .mixop14
  | _ => .mixop15

/-- The command of an OPC other than MIXOP's, where R54 has one. -/
def decodePlain (opc : BitVec 8) : Option Instr :=
  match opc.toNat with
  | 0x00 => some .nop
  | 0x01 => some .rotl
  | 0x02 => some .rotr
  | 0x03 => some .div128
  | 0x04 => some .udiv
  | 0x05 => some .isqrt
  | 0x06 => some .mulhi
  | 0x07 => some .mulhi128
  | 0x08 => some .divw
  | 0x11 => some .mixauto
  | 0x20 => some .expand
  | 0x21 => some .mixpass
  | 0x22 => some .finalize
  | 0x23 => some .hash
  | _ => none

/-- Decoding the fields, in the order of R55; `none` is an illegal word. -/
def decodeFields (f : CmdFields) : Option Instr :=
  if f.res ≠ 0 then none
  else if f.opc = 0x10 then some (decodeMixop f.sel)
  else if f.sel ≠ 0 then none
  else decodePlain f.opc

/-- `decode(w)` of R55. -/
def decode (w : Word) : Option Instr := decodeFields (CmdFields.ofWord w)

/-- The OPC and SEL columns of R54. -/
def encodeFields (i : Instr) : CmdFields :=
  match i with
  | .nop => ⟨0x00, 0, 0⟩
  | .rotl => ⟨0x01, 0, 0⟩
  | .rotr => ⟨0x02, 0, 0⟩
  | .div128 => ⟨0x03, 0, 0⟩
  | .udiv => ⟨0x04, 0, 0⟩
  | .isqrt => ⟨0x05, 0, 0⟩
  | .mulhi => ⟨0x06, 0, 0⟩
  | .mulhi128 => ⟨0x07, 0, 0⟩
  | .divw => ⟨0x08, 0, 0⟩
  | .mixop0 => ⟨0x10, 0, 0⟩
  | .mixop1 => ⟨0x10, 1, 0⟩
  | .mixop2 => ⟨0x10, 2, 0⟩
  | .mixop3 => ⟨0x10, 3, 0⟩
  | .mixop4 => ⟨0x10, 4, 0⟩
  | .mixop5 => ⟨0x10, 5, 0⟩
  | .mixop6 => ⟨0x10, 6, 0⟩
  | .mixop7 => ⟨0x10, 7, 0⟩
  | .mixop8 => ⟨0x10, 8, 0⟩
  | .mixop9 => ⟨0x10, 9, 0⟩
  | .mixop10 => ⟨0x10, 10, 0⟩
  | .mixop11 => ⟨0x10, 11, 0⟩
  | .mixop12 => ⟨0x10, 12, 0⟩
  | .mixop13 => ⟨0x10, 13, 0⟩
  | .mixop14 => ⟨0x10, 14, 0⟩
  | .mixop15 => ⟨0x10, 15, 0⟩
  | .mixauto => ⟨0x11, 0, 0⟩
  | .expand => ⟨0x20, 0, 0⟩
  | .mixpass => ⟨0x21, 0, 0⟩
  | .finalize => ⟨0x22, 0, 0⟩
  | .hash => ⟨0x23, 0, 0⟩

/-- The command word of R54. -/
def encode (i : Instr) : Word := (encodeFields i).toWord

/-- The command word the low `nbits` bits of `w` are; what lies above them is 0. A command is one
64-bit word and the host hands it over whole (R40, R50), so no byte order enters. -/
def commandWord (nbits w : Nat) : Word := BitVec.ofNat 64 (w % 2 ^ nbits)

/-- The command the decoder reads from `nbits` bits of `w`, bit 0 the least significant. -/
def decodeTableWord (nbits w : Nat) : Option Instr := decode (commandWord nbits w)

end Sys2Proof
end

