-- ==== Sys2Proof/Machine/Bytes.lean ====
section
/-!
DEFINITION. Byte strings and the word views of them (00_scope.md R8, R9).
-/

namespace Sys2Proof.Machine

/-- `s[n]` (R9). Every use has `n` below the length (log 15). -/
def byteAt (s : List Byte) (n : Nat) : Byte := s.getD n 0

/-- `s[a..a+n)` (R9). -/
def slice (s : List Byte) (a n : Nat) : List Byte := (s.drop a).take n

/-- `x[8n+7:8n]` (R7). -/
def leByte (x : Word) (n : Nat) : Byte := x.extractLsb' (8 * n) 8

/-- `le64(x)` (R9). -/
def le64 (x : Word) : List Byte :=
  [leByte x 0, leByte x 1, leByte x 2, leByte x 3, leByte x 4, leByte x 5, leByte x 6, leByte x 7]

/-- `unle64(s)` (R9). -/
def unle64 (s : List Byte) : Word :=
  byteAt s 7 ++ byteAt s 6 ++ byteAt s 5 ++ byteAt s 4 ++
    byteAt s 3 ++ byteAt s 2 ++ byteAt s 1 ++ byteAt s 0

/-- The byte string of a list of words, each `le64`, in order (R37). -/
def wordsToBytes (ws : List Word) : List Byte := ws.flatMap le64

/-- `[ unle64(s[8k .. 8k+8)) for k in 0..n-1 ]` (42_keystream.md R106). -/
def bytesToWords (n : Nat) (s : List Byte) : List Word :=
  (List.range n).map fun k => unle64 (slice s (8 * k) 8)

/-- `combine(hi, lo)` (R8). -/
def combine (hi lo : Word) : DWord := hi ++ lo

/-- `lo64(z)` (R8). -/
def lo64 (z : DWord) : Word := z.extractLsb' 0 64

/-- `hi64(z)` (R8). -/
def hi64 (z : DWord) : Word := z.extractLsb' 64 64

end Sys2Proof.Machine
end

