-- ==== Sys2Proof/Machine/Memory.lean ====
section
/-!
DEFINITION. The store behind the scratch memory: (byte address, byte) cells, addresses strictly
rising (20_memory.md R37; log 12).
-/

namespace Sys2Proof.Machine

/-- What an address that is not listed holds: no value (93 U1; log 12). -/
def Memory.unlisted : Option Byte := none

/-- The byte at an address. -/
def Memory.read : List Host.Cell → Nat → Option Byte
  | [], _ => Memory.unlisted
  | (b, v) :: m, a => if b = a then some v else Memory.read m a

/-- Store a byte, keeping the addresses strictly rising. -/
def Memory.write : List Host.Cell → Nat → Byte → List Host.Cell
  | [], a, v => [(a, v)]
  | (b, w) :: m, a, v =>
    if a < b then (a, v) :: (b, w) :: m
    else if a = b then (a, v) :: m
    else (b, w) :: Memory.write m a v

/-- Store a byte string from an address on. -/
def Memory.writeBytes : List Host.Cell → Nat → List Byte → List Host.Cell
  | m, _, [] => m
  | m, a, v :: vs => Memory.writeBytes (Memory.write m a v) (a + 1) vs

/-- The cells of a byte string laid out from an address on, and nothing else. -/
def Memory.ofBytes : Nat → List Byte → List Host.Cell
  | _, [] => []
  | a, v :: vs => (a, v) :: Memory.ofBytes (a + 1) vs

/-- The canonical form: addresses strictly rising from `lo` on. No entry can equal what an unlisted
address reads as, since that is no value. -/
def Memory.wfFrom : Nat → List Host.Cell → Bool
  | _, [] => true
  | lo, (a, _) :: m => decide (lo ≤ a) && Memory.wfFrom (a + 1) m

/-- The canonical form of a memory. -/
def Memory.wf (m : List Host.Cell) : Bool := Memory.wfFrom 0 m

/-- Whether a set of indices, held strictly rising, has an index. -/
def indexIn (ks : List Nat) (k : Nat) : Bool := ks.contains k

/-- Put an index into a strictly rising list of indices. -/
def indexInsert : List Nat → Nat → List Nat
  | [], k => [k]
  | j :: ks, k => if k < j then k :: j :: ks else if k = j then j :: ks else j :: indexInsert ks k

/-- The canonical form of a set of indices: strictly rising from `lo` on. -/
def indexWfFrom : Nat → List Nat → Bool
  | _, [] => true
  | lo, k :: ks => decide (lo ≤ k) && indexWfFrom (k + 1) ks

end Sys2Proof.Machine
end

