-- ==== Sys2Proof/Machine/State.lean ====
section
/-!
DEFINITION. The state of one instance (10_state.md R15) and the state after reset (R35).
-/

namespace Sys2Proof.Machine

/-- The fault codes of 60_exceptions.md R132. Codes 7 to 15 are never produced (93 U7), so they
have no constructor. -/
inductive FaultCode where
  /-- 1, ILLEGAL_CMD (R133). -/
  | illegalCmd
  /-- 2, CFG_INVALID (R134). -/
  | cfgInvalid
  /-- 3, DIV_ZERO (R135). -/
  | divZero
  /-- 4, DIV_OVERFLOW (R136). -/
  | divOverflow
  /-- 5, BUSY_ACCESS (R137). -/
  | busyAccess
  /-- 6, SPM_RANGE (R138). -/
  | spmRange
  deriving DecidableEq, Repr

/-- What one agent does in one step (10_state.md R14; 70_reset_and_hazards.md R150, R159). -/
inductive Event where
  /-- The host performs one access (20_memory.md R40). -/
  | host (a : Access)
  /-- The unit takes its turn: the completion step where a command is in flight (R159), nothing
  where none is (R160). -/
  | unit
  /-- The platform asserts the hardware reset input (R150). -/
  | hardwareReset
  deriving DecidableEq, Repr

/-- The state: what R15 lists, and four fields of the model's own (the last four). -/
@[ext]
structure State where
  /-- Operand registers `X0` to `X6` (R16). -/
  x : Vector Word 7
  /-- Result registers `Y0` to `Y3` (R18). -/
  y : Vector Word 4
  /-- `CTRL.IE` (R23). -/
  ie : Bool
  /-- `STATUS.DONE` (R21). -/
  done : Bool
  /-- `STATUS.FAULT` and `STATUS.FCODE` (R21): the fault recorded since reset, if any. -/
  fault : Option FaultCode
  /-- `STATUS.DGV` (R21). -/
  dgv : Bool
  /-- `ERRINFO` (R24). -/
  errInfo : Word
  /-- `NONCE0_LO` (R25). -/
  nonceLo : Word
  /-- `NONCE0_HI[31:0]`, the part that is stored (R25). -/
  nonceHi : BitVec 32
  /-- `IN0` to `IN13` (R26). -/
  inp : Vector Word 14
  /-- `SK0` to `SK15` (R27). -/
  sk : Vector Word 16
  /-- `AK0`, `AK1` (R28). -/
  ak : Vector Word 2
  /-- `DG0` to `DG3` (R29). -/
  dg : Vector Word 4
  /-- `IN_W` (R31). -/
  inW : Vector Bool 14
  /-- `SK_W` (R31). -/
  skW : Vector Bool 16
  /-- `AK_W` (R31). -/
  akW : Vector Bool 2
  /-- The scratch memory by byte address (20_memory.md R36, R37), strictly rising; an address that
  is not listed holds no value the model knows (log 12). -/
  scratch : List Host.Cell
  /-- `SP_W` (R31): the indices of the words written since reset, strictly rising. -/
  spW : List Nat
  /-- `INFLIGHT` (R32). `STATUS.BUSY` is 1 exactly when it is not empty. -/
  inflight : Option Instr
  /-- The instance's `M` (00_scope.md R5, R6; log 1). Never changes. -/
  memWords : Nat
  /-- What the agents do next, in order (log 6). -/
  agenda : List Event
  /-- The values host reads have returned, newest first (log 7). -/
  returned : List Word
  /-- How many unspecified host reads there have been (log 11). -/
  freeReads : Nat
  deriving DecidableEq, Repr

/-- Why a step stops. Every fault of the SPEC is a recorded condition and a next state
(60_exceptions.md R130); this is only for states that no run reaches. -/
inductive Fault where
  /-- Raised by a completion step (70_reset_and_hazards.md R159) whose command does not pass its own
  submission check (60_exceptions.md R139), with the code that check gives. No run reaches such a
  state: the check passed at acceptance and its inputs are frozen (R156). The spec gives the
  completion no effect there: a zero divisor reaching the primitive is "a fatal/contract error,
  never silent wraparound" (40_wide_arith.md R61). Safe: the model stops (log 10). -/
  | brokenContract (cause : FaultCode)
  deriving DecidableEq, Repr

/-- Why a step has no meaning. -/
inductive Refusal where
  /-- Raised by an arm of `exec` whose command has no meaning yet. No arm is one. Safe. -/
  | notModelled (mnemonic : String)
  deriving DecidableEq, Repr

/-- The state after a hardware reset of an instance with `M = m` (R35, R151): every register 0,
every written bit 0, nothing in flight, no scratch word known, and nothing the agents are about
to do. -/
def State.resetOf (m : Nat) : State where
  x := Vector.replicate 7 0
  y := Vector.replicate 4 0
  ie := false
  done := false
  fault := none
  dgv := false
  errInfo := 0
  nonceLo := 0
  nonceHi := 0
  inp := Vector.replicate 14 0
  sk := Vector.replicate 16 0
  ak := Vector.replicate 2 0
  dg := Vector.replicate 4 0
  inW := Vector.replicate 14 false
  skW := Vector.replicate 16 false
  akW := Vector.replicate 2 false
  scratch := []
  spW := []
  inflight := none
  memWords := m
  agenda := []
  returned := []
  freeReads := 0

/-- The machine right after reset (R35), of the instance whose `M` is the open parameter. -/
def State.reset : State := State.resetOf Config.memWords

end Sys2Proof.Machine
end

