-- ==== Sys2Proof/Machine/Operands.lean ====
section
/-!
DEFINITION. The operands a command reads: fixed registers (10_state.md R16), the byte strings of
the data registers (R25 to R28), and the two views of the scratch memory (20_memory.md R37).
-/

namespace Sys2Proof.Machine

/-- `X0` to `X6` by name (R16). -/
def x0 (s : State) : Word := s.x[0]
@[inherit_doc x0] def x1 (s : State) : Word := s.x[1]
@[inherit_doc x0] def x2 (s : State) : Word := s.x[2]
@[inherit_doc x0] def x3 (s : State) : Word := s.x[3]
@[inherit_doc x0] def x4 (s : State) : Word := s.x[4]
@[inherit_doc x0] def x5 (s : State) : Word := s.x[5]
@[inherit_doc x0] def x6 (s : State) : Word := s.x[6]

/-- The seven operands of a mixing function (41_mix_ops.md R80). -/
structure MixOperands where
  a : Word
  b : Word
  c : Word
  result : Word
  r : Word
  i : Word
  j : Word
  deriving DecidableEq, Repr

/-- The operands of MIXOP.k and MIXAUTO (R80). -/
def mixOperands (s : State) : MixOperands where
  a := x0 s
  b := x1 s
  c := x2 s
  result := x3 s
  r := x4 s
  i := x5 s
  j := x6 s

/-- `IB` (R26, 42_keystream.md R101): the 112-byte input block. -/
def inputBlock (s : State) : List Byte := wordsToBytes s.inp.toList

/-- `KM` (R27): the 128 bytes of sub-key material. -/
def keyMaterial (s : State) : List Byte := wordsToBytes s.sk.toList

/-- `NONCE0` (R25): 12 bytes. -/
def nonce0 (s : State) : List Byte := le64 s.nonceLo ++ slice (le64 (s.nonceHi.zeroExtend 64)) 0 4

/-- `AESKEY` (R28): 16 bytes. -/
def aesKey (s : State) : List Byte := wordsToBytes s.ak.toList

/-- One scratch byte (R37). A byte that is not listed holds an unknown value (log 12). -/
def scratchByte (s : State) (a : Nat) : Byte :=
  (Memory.read s.scratch a).getD (Config.initialScratch a)

/-- `SPbytes(a, n)` (R37). -/
def scratchBytes (s : State) (a n : Nat) : List Byte :=
  (List.range n).map fun k => scratchByte s (a + k)

/-- `SP[k]` through the byte view (R37). -/
def scratchWord (s : State) (k : Nat) : Word := unle64 (scratchBytes s (8 * k) 8)

/-- `SP[0..M)` (R36). -/
def scratchWords (s : State) : List Word := (List.range s.memWords).map (scratchWord s)

end Sys2Proof.Machine
end

