-- ==== Sys2Proof/Machine/Flags.lean ====
section
/-!
DEFINITION. STATUS and the interrupt output (10_state.md R21, R34), the valid bits (R31), CAPS
(R20), and the words ERRINFO records (R24).
-/

namespace Sys2Proof.Machine

/-- `STATUS.BUSY` (R21, R32). -/
def busy (s : State) : Bool := s.inflight.isSome

/-- `STATUS.FAULT` (R21). -/
def faulted (s : State) : Bool := s.fault.isSome

/-- The numbers of R132. -/
def FaultCode.number (f : FaultCode) : BitVec 4 :=
  match f with
  | .illegalCmd => 1
  | .cfgInvalid => 2
  | .divZero => 3
  | .divOverflow => 4
  | .busyAccess => 5
  | .spmRange => 6

/-- `STATUS.FCODE` (R21): 0 where no fault is recorded. -/
def fcode (s : State) : BitVec 4 :=
  match s.fault with
  | none => 0
  | some f => f.number

/-- The interrupt output (R34, R144). -/
def irq (s : State) : Bool := s.ie && (s.done || faulted s)

/-- `STATUS.INV`: AND of `IN_W` (R21). -/
def inv (s : State) : Bool := s.inW.toList.all id

/-- `STATUS.SKV`: AND of `SK_W` (R21). -/
def skv (s : State) : Bool := s.skW.toList.all id

/-- `STATUS.AKV`: AND of `AK_W` (R21). -/
def akv (s : State) : Bool := s.akW.toList.all id

/-- `STATUS.SPV`: AND of `SP_W` (R21). `M` is positive (R5), so a bitmap of no ones has AND 0: the
first conjunct only makes that answer immediate. -/
def spv (s : State) : Bool :=
  !s.spW.isEmpty && (List.range s.memWords).all fun k => indexIn s.spW k

/-- The STATUS register (R21), bit 63 first. -/
def status (s : State) : Word :=
  0#51 ++ BitVec.ofBool s.dgv ++ BitVec.ofBool (spv s) ++ BitVec.ofBool (akv s) ++
    BitVec.ofBool (skv s) ++ BitVec.ofBool (inv s) ++ fcode s ++ BitVec.ofBool (irq s) ++
    BitVec.ofBool (faulted s) ++ BitVec.ofBool s.done ++ BitVec.ofBool (busy s)

/-- `STATUS[15:8]`, the valid bits of ERRINFO.AUX (R24). -/
def validBits (s : State) : BitVec 8 := (status s).extractLsb' 8 8

/-- The CAPS register (R20). -/
def caps (s : State) : Word :=
  0#16 ++ BitVec.ofNat 8 Config.version ++ BitVec.ofNat 8 Config.iters ++ BitVec.ofNat 32 s.memWords

/-- The CTRL register as read (R23): SRST and DCLR read 0. -/
def ctrlWord (s : State) : Word := 0#62 ++ BitVec.ofBool s.ie ++ 0#1

/-- ERRINFO of a command fault (R24, R131): OPC and SEL of the faulting word, AUX the valid bits
before the fault. -/
def commandInfo (w : Word) (s : State) : Word :=
  0#32 ++ 0#8 ++ validBits s ++ 0#4 ++ w.extractLsb' 8 4 ++ w.extractLsb' 0 8

/-- ERRINFO of a host-access fault in the CSR space (R24): AUX the index. -/
def csrInfo (write : Bool) (idx : BitVec 7) : Word :=
  0#32 ++ 0#8 ++ idx.zeroExtend 8 ++ 0#1 ++ BitVec.ofBool write ++ 0#1 ++ 1#1 ++ 0#12

/-- ERRINFO of a host-access fault in the scratch space (R24): IDX the word index. -/
def spmInfo (write : Bool) (k : BitVec 32) : Word :=
  k ++ 0#8 ++ 0#8 ++ 0#1 ++ BitVec.ofBool write ++ 1#1 ++ 1#1 ++ 0#12

end Sys2Proof.Machine
end

