-- ==== Sys2Proof/Machine/Ops.lean ====
section
/-!
DEFINITION. The shared operations: recording a fault (60_exceptions.md R131), submission (R139),
acceptance and completion (10_state.md R32; 70_reset_and_hazards.md R159), the two resets
(R150, R151), and the updates the commands and the host make.
-/

namespace Sys2Proof.Machine

/-- Taking a fault: `raise F(info)` (R131). The first fault wins (R140). -/
def raise (f : FaultCode) (info : Word) (s : State) : State :=
  match s.fault with
  | none => { s with fault := some f, errInfo := info }
  | some _ => s

/-- The state that only a reset leaves (R35): every register and bit at its reset value. The scratch
contents are the ones given, and the instance, the agents' plans and what the host has read are not
the block's to clear. -/
def clearedState (scratch : List Host.Cell) (s : State) : State :=
  { State.resetOf s.memWords with
    scratch := scratch
    agenda := s.agenda
    returned := s.returned
    freeReads := s.freeReads }

/-- The soft reset, `CTRL.SRST` (R150, R151): the scratch words keep what they held. This is also the
only return from a fault (R143). -/
def softReset (s : State) : State := clearedState s.scratch s

/-- The hardware reset (R150, R151): the scratch words are unspecified after it. -/
def hardReset (s : State) : State := clearedState [] s

/-- Acceptance of a command (R32). -/
def accept (i : Instr) (s : State) : State := { s with inflight := some i, done := false }

/-- The end of the completion step (R32, R159). -/
def retire (s : State) : State := { s with inflight := none, done := true }

/-- Checks 4 to 6 of R139: the valid bits of R134, then the divisors of R135, then the quotient of
R136. -/
def commandCheck (i : Instr) (s : State) : Option FaultCode :=
  match i with
  | .div128 =>
    if x2 s = 0 then some .divZero else if x2 s ≤ x0 s then some .divOverflow else none
  | .udiv => if x2 s = 0 then some .divZero else none
  | .divw => if combine (x2 s) (x3 s) = 0 then some .divZero else none
  | .expand => if inv s && skv s then none else some .cfgInvalid
  | .mixpass => if akv s && spv s then none else some .cfgInvalid
  | .finalize => if spv s then none else some .cfgInvalid
  | .hash => if inv s && skv s && akv s then none else some .cfgInvalid
  | .nop | .rotl | .rotr | .isqrt | .mulhi | .mulhi128 => none
  | .mixop0 | .mixop1 | .mixop2 | .mixop3 | .mixop4 | .mixop5 | .mixop6 | .mixop7 => none
  | .mixop8 | .mixop9 | .mixop10 | .mixop11 | .mixop12 | .mixop13 | .mixop14 | .mixop15 => none
  | .mixauto => none

/-- The CSR index of CMD (R19). -/
def cmdIndex : BitVec 7 := 0x02

/-- Submission of the word `w`, which decodes as `cmd`, with the result of the command's own checks:
the order of R139. -/
def submit (w : Word) (cmd : Option Instr) (check : Option FaultCode) (s : State) : State :=
  if busy s then raise .busyAccess (csrInfo true cmdIndex) s
  else if faulted s then s
  else
    match cmd with
    | none => raise .illegalCmd (commandInfo w s) s
    | some i =>
      match check with
      | some f => raise f (commandInfo w s) s
      | none => accept i s

/-- A command's meaning, from the effect its rule gives it (log 9). Where the command is in flight,
this is its completion step (R159): the effect, then INFLIGHT empty and DONE 1. Where it is not, the
command is being submitted (R139). -/
def runCommand (i : Instr) (effect : State → State) (s : State) :
    Host.Outcome State Fault Refusal :=
  if s.inflight = some i then
    match commandCheck i s with
    | none => .next (retire (effect s))
    | some f => .fault (.brokenContract f)
  else .next (submit (encode i) (some i) (commandCheck i s) s)

/-- The four result registers (R18). -/
def writeResults (r0 r1 r2 r3 : Word) (s : State) : State := { s with y := #v[r0, r1, r2, r3] }

/-- The whole scratch memory and its written bits (42_keystream.md R106, R31). -/
def writeScratchAll (ws : List Word) (s : State) : State :=
  { s with scratch := Memory.ofBytes 0 (wordsToBytes ws), spW := List.range s.memWords }

/-- The scratch words, in place (43_mixer.md R110): no written bit changes. -/
def mixScratch (ws : List Word) (s : State) : State :=
  { s with scratch := Memory.ofBytes 0 (wordsToBytes ws) }

/-- One scratch word (20_memory.md R44). -/
def writeScratchWord (k : Nat) (v : Word) (s : State) : State :=
  { s with scratch := Memory.writeBytes s.scratch (8 * k) (le64 v), spW := indexInsert s.spW k }

/-- The digest registers and DGV (44_finalizer.md R122): `DGk = unle64(D[8k..8k+8))`. -/
def writeDigest (d : List Byte) (s : State) : State :=
  { s with
    dg := #v[unle64 (slice d 0 8), unle64 (slice d 8 8), unle64 (slice d 16 8),
      unle64 (slice d 24 8)]
    dgv := true }

/-- A host read returns a value (20_memory.md R40; log 7). -/
def deliver (v : Word) (s : State) : State := { s with returned := v :: s.returned }

/-- An unspecified value is used up (93 U1; log 11). -/
def countFreeRead (s : State) : State := { s with freeReads := s.freeReads + 1 }

/-- A write to CTRL (R23): with SRST = 1 the reset and nothing else; otherwise IE, and DCLR. -/
def writeCtrl (v : Word) (s : State) : State :=
  if v.getLsbD 0 then softReset s
  else { s with ie := v.getLsbD 1, done := s.done && !v.getLsbD 2 }

end Sys2Proof.Machine
end

