-- ==== Sys2Proof/Machine/Control.lean ====
section
/-!
DEFINITION. The one control command (45_control.md R125).
-/

namespace Sys2Proof.Machine

/-- What NOP writes (R125). -/
def nopEffect (s : State) : State := s

/-- NOP (R125): no effect but the completion's own. -/
def execNop (s : State) : Host.Outcome State Fault Refusal := runCommand .nop nopEffect s

end Sys2Proof.Machine
end

