-- ==== Sys2Proof/Machine/Keystream.lean ====
section
/-!
DEFINITION. The keystream-expansion engine, Stage 1 (42_keystream.md), and the meaning of EXPAND.
The two external primitives are arguments (00_scope.md R5), so that a test can supply its own.
-/

namespace Sys2Proof.Machine

/-- The loop state of Stage 1 (10_state.md R33): the chaining digest, the nonce and the bytes so
far. -/
structure Stage1State where
  digest : List Byte
  nonce : List Byte
  out : List Byte
  deriving DecidableEq, Repr

/-- `subkey_i = KM[32i .. 32i+32)` (R102). -/
def subKey (km : List Byte) (i : Nat) : List Byte := slice km (32 * i) 32

/-- The segment step `i` (R104, R105). -/
def segmentStep (hash32 : List Byte → Vector Byte 32)
    (chaCha8 : List Byte → List Byte → (n : Nat) → Vector Byte n) (m : Nat) (km : List Byte)
    (st : Stage1State) (i : Nat) : Stage1State :=
  let digest := (hash32 (st.digest ++ subKey km i)).toList
  let ks := (chaCha8 digest st.nonce (Config.segBytes m)).toList
  { digest := digest
    nonce := slice ks (Config.segBytes m - Config.nonceLen) Config.nonceLen
    out := st.out ++ ks }

/-- The bytes Stage 1 produces: four segments from `H_0 = Hash32(IB)` and `N_0 = NONCE0` (R103 to
R106). -/
def stage1Bytes (hash32 : List Byte → Vector Byte 32)
    (chaCha8 : List Byte → List Byte → (n : Nat) → Vector Byte n) (m : Nat)
    (ib km nonce : List Byte) : List Byte :=
  ((List.range 4).foldl (segmentStep hash32 chaCha8 m km)
    { digest := (hash32 ib).toList, nonce := nonce, out := [] }).out

/-- `stage1(IB, KM, NONCE0)` (R106). -/
def stage1 (hash32 : List Byte → Vector Byte 32)
    (chaCha8 : List Byte → List Byte → (n : Nat) → Vector Byte n) (m : Nat)
    (ib km nonce : List Byte) : List Word :=
  bytesToWords m (stage1Bytes hash32 chaCha8 m ib km nonce)

/-- Stage 1 on a state's operands, with the instance's primitives (R100). -/
def stage1Of (s : State) : List Word :=
  stage1 Config.hash32 Config.chaCha8 s.memWords (inputBlock s) (keyMaterial s) (nonce0 s)

/-- What EXPAND writes (R100). -/
def expandEffect (s : State) : State := writeScratchAll (stage1Of s) s

/-- EXPAND (R100). -/
def execExpand (s : State) : Host.Outcome State Fault Refusal := runCommand .expand expandEffect s

end Sys2Proof.Machine
end

