-- ==== Sys2Proof/Machine/Aes.lean ====
section
/-!
DEFINITION. One standard AES encryption round (00_scope.md R13), on 16-byte strings. PRESUMED by the
spec itself (93 G4; log 4).
-/

namespace Sys2Proof.Machine

/-- Multiplication by `x` in GF(2^8) modulo `x^8 + x^4 + x^3 + x + 1` (R13). -/
def gfDouble (a : Byte) : Byte := if a.msb then (a <<< 1) ^^^ 0x1B else a <<< 1

/-- `a·b` in GF(2^8), by the bits of `b` from the highest of `n` down (R13). -/
def gfMulBits (a b : Byte) : Nat → Byte
  | 0 => 0
  | n + 1 => (if b.getLsbD 0 then a else 0) ^^^ gfMulBits (gfDouble a) (b >>> 1) n

/-- `a·b` in GF(2^8) (R13). -/
def gfMul (a b : Byte) : Byte := gfMulBits a b 8

/-- The multiplicative inverse in GF(2^8), 0 for 0 (R13): `b^254`, by squares `b^2 … b^128`. -/
def gfInv (b : Byte) : Byte :=
  let b2 := gfMul b b
  let b4 := gfMul b2 b2
  let b8 := gfMul b4 b4
  let b16 := gfMul b8 b8
  let b32 := gfMul b16 b16
  let b64 := gfMul b32 b32
  let b128 := gfMul b64 b64
  gfMul (gfMul (gfMul (gfMul (gfMul (gfMul b2 b4) b8) b16) b32) b64) b128

/-- `SBox(b)` (R13): bit `i` is `q[i] ^ q[i+4] ^ q[i+5] ^ q[i+6] ^ q[i+7] ^ 0x63[i]`, indices modulo
8, for `q` the inverse of `b`. Rotating `q` left by `n` brings bit `i - n` to bit `i`. -/
def sbox (b : Byte) : Byte :=
  let q := gfInv b
  q ^^^ q.rotateLeft 4 ^^^ q.rotateLeft 3 ^^^ q.rotateLeft 2 ^^^ q.rotateLeft 1 ^^^ 0x63

/-- SubBytes (R13). -/
def subBytes (s : List Byte) : List Byte := s.map sbox

/-- ShiftRows (R13): byte `r + 4c` from byte `r + 4((c + r) mod 4)`. -/
def shiftRows (s : List Byte) : List Byte :=
  (List.range 16).map fun n => byteAt s (n % 4 + 4 * ((n / 4 + n % 4) % 4))

/-- MixColumns on one column (R13). -/
def mixColumn (a0 a1 a2 a3 : Byte) : List Byte :=
  [ gfMul 2 a0 ^^^ gfMul 3 a1 ^^^ a2 ^^^ a3,
    a0 ^^^ gfMul 2 a1 ^^^ gfMul 3 a2 ^^^ a3,
    a0 ^^^ a1 ^^^ gfMul 2 a2 ^^^ gfMul 3 a3,
    gfMul 3 a0 ^^^ a1 ^^^ a2 ^^^ gfMul 2 a3 ]

/-- MixColumns (R13). -/
def mixColumns (t : List Byte) : List Byte :=
  (List.range 4).flatMap fun c =>
    mixColumn (byteAt t (4 * c)) (byteAt t (4 * c + 1)) (byteAt t (4 * c + 2)) (byteAt t (4 * c + 3))

/-- AddRoundKey (R13). -/
def addRoundKey (u key : List Byte) : List Byte :=
  (List.range 16).map fun n => byteAt u n ^^^ byteAt key n

/-- `AESRound(blk, key)` (R13). -/
def aesRound (blk key : List Byte) : List Byte :=
  addRoundKey (mixColumns (shiftRows (subBytes blk))) key

end Sys2Proof.Machine
end

