-- ==== Sys2Proof/Machine/WideArith.lean ====
section
/-!
DEFINITION. The wide-arithmetic unit (40_wide_arith.md): the primitives of section 1 and the
meanings of the eight commands of section 2.
-/

namespace Sys2Proof.Machine

/-- `rotl64(x, n)` (R60): the amount is taken modulo 64. -/
def rotl64 (x : Word) (n : Nat) : Word :=
  if n % 64 = 0 then x else (x <<< (n % 64)) ||| (x >>> (64 - n % 64))

/-- `rotr64(x, n)` (R60). -/
def rotr64 (x : Word) (n : Nat) : Word :=
  if n % 64 = 0 then x else (x >>> (n % 64)) ||| (x <<< (64 - n % 64))

/-- `divide_128_by_64(hi, lo, d)` (R61): quotient and remainder. Called only with `d ≠ 0` and
`hi < d`, where both fit 64 bits. -/
def divide128By64 (hi lo d : Word) : Word × Word :=
  (lo64 (combine hi lo / d.zeroExtend 128), lo64 (combine hi lo % d.zeroExtend 128))

/-- `udiv(hi, lo, d) = (qlo, qhi, rem)` (R62), two primitive divisions. Called only with `d ≠ 0`. -/
def udiv (hi lo d : Word) : Word × Word × Word :=
  let high := divide128By64 0 hi d
  let low := divide128By64 high.2 lo d
  (low.1, high.1, low.2)

/-- R63: the largest power of four not exceeding `n`, from `bit` down; 0 where `n = 0`. -/
def sqrtStart : Nat → Nat → Nat → Nat
  | 0, bit, _ => bit
  | fuel + 1, bit, n => if n < bit then sqrtStart fuel (bit / 4) n else bit

/-- R63: the digit-by-digit loop over `bit`, with the running remainder and result. The update step is
PRESUMED by the spec itself; the floor it computes is not (93 G5; log 16). -/
def sqrtLoop : Nat → Nat → Nat → Nat → Nat
  | 0, _, _, res => res
  | fuel + 1, bit, rem, res =>
    if bit = 0 then res
    else if res + bit ≤ rem then sqrtLoop fuel (bit / 4) (rem - (res + bit)) (res / 2 + bit)
    else sqrtLoop fuel (bit / 4) rem (res / 2)

/-- `integer_sqrt(n)` (R63). 32 powers of four lie between 2^62 and 1, so the fuel never runs out. -/
def integerSqrt (n : Word) : Word :=
  BitVec.ofNat 64 (sqrtLoop 32 (sqrtStart 32 (2 ^ 62) n.toNat) n.toNat 0)

/-- `mul128x64(hi, lo, c)` (R64). -/
def mul128x64 (hi lo c : Word) : DWord := combine hi lo * c.zeroExtend 128

/-- `mul128x128(p, q, s, t)` (R64). -/
def mul128x128 (p q s t : Word) : DWord := combine p q * combine s t

/-- `div128w(N, D)` (R65). Called only with `D ≠ 0`. -/
def div128w (n d : DWord) : DWord × DWord := (n / d, n % d)

/-- What ROTL writes (R66). -/
def rotlEffect (s : State) : State := writeResults (rotl64 (x0 s) (x1 s).toNat) 0 0 0 s

/-- ROTL (R66). -/
def execRotl (s : State) : Host.Outcome State Fault Refusal := runCommand .rotl rotlEffect s

/-- What ROTR writes (R67). -/
def rotrEffect (s : State) : State := writeResults (rotr64 (x0 s) (x1 s).toNat) 0 0 0 s

/-- ROTR (R67). -/
def execRotr (s : State) : Host.Outcome State Fault Refusal := runCommand .rotr rotrEffect s

/-- What DIV128 writes (R68). -/
def div128Effect (s : State) : State :=
  let q := divide128By64 (x0 s) (x1 s) (x2 s)
  writeResults q.1 0 q.2 0 s

/-- DIV128 (R68). -/
def execDiv128 (s : State) : Host.Outcome State Fault Refusal := runCommand .div128 div128Effect s

/-- What UDIV writes (R69). -/
def udivEffect (s : State) : State :=
  let q := udiv (x0 s) (x1 s) (x2 s)
  writeResults q.1 q.2.1 q.2.2 0 s

/-- UDIV (R69). -/
def execUdiv (s : State) : Host.Outcome State Fault Refusal := runCommand .udiv udivEffect s

/-- What ISQRT writes (R70). -/
def isqrtEffect (s : State) : State :=
  let q := integerSqrt (x0 s)
  writeResults q 0 (x0 s - q * q) 0 s

/-- ISQRT (R70). -/
def execIsqrt (s : State) : Host.Outcome State Fault Refusal := runCommand .isqrt isqrtEffect s

/-- What MULHI writes (R71). -/
def mulhiEffect (s : State) : State :=
  let p := mul128x64 (x0 s) (x1 s) (x2 s)
  writeResults (hi64 p) (lo64 p) 0 0 s

/-- MULHI (R71). -/
def execMulhi (s : State) : Host.Outcome State Fault Refusal := runCommand .mulhi mulhiEffect s

/-- What MULHI128 writes (R72). -/
def mulhi128Effect (s : State) : State :=
  let p := mul128x128 (x0 s) (x1 s) (x2 s) (x3 s)
  writeResults (hi64 p) (lo64 p) 0 0 s

/-- MULHI128 (R72). -/
def execMulhi128 (s : State) : Host.Outcome State Fault Refusal :=
  runCommand .mulhi128 mulhi128Effect s

/-- What DIVW writes (R73). -/
def divwEffect (s : State) : State :=
  let q := div128w (combine (x0 s) (x1 s)) (combine (x2 s) (x3 s))
  writeResults (lo64 q.1) (hi64 q.1) (lo64 q.2) (hi64 q.2) s

/-- DIVW (R73). -/
def execDivw (s : State) : Host.Outcome State Fault Refusal := runCommand .divw divwEffect s

end Sys2Proof.Machine
end

