-- ==== Sys2Proof/Machine/MixOps.lean ====
section
/-!
DEFINITION. The mixing operations (41_mix_ops.md): the table of sixteen functions, the selector, and
the meanings of MIXOP.0 to MIXOP.15 and MIXAUTO.
-/

namespace Sys2Proof.Machine

/-- `mix_0`: R81, `rotl64(c, i*j) ^ b`. PRESUMED by the spec itself (93 G6; log 5). -/
def mix0 (o : MixOperands) : Word :=
  rotl64 o.c (o.i * o.j).toNat ^^^ o.b

/-- `mix_1`: R82, `rotr64(c, i*j) ^ a`. PRESUMED by the spec itself (93 G6; log 5). -/
def mix1 (o : MixOperands) : Word :=
  rotr64 o.c (o.i * o.j).toNat ^^^ o.a

/-- `mix_2`: R83, `a ^ b ^ c`. -/
def mix2 (o : MixOperands) : Word :=
  o.a ^^^ o.b ^^^ o.c

/-- `mix_3`: R84, `(a + b) * c`. -/
def mix3 (o : MixOperands) : Word :=
  (o.a + o.b) * o.c

/-- `mix_4`: R85, `(b - c) * a`. -/
def mix4 (o : MixOperands) : Word :=
  (o.b - o.c) * o.a

/-- `mix_5`: R86, `(c - a) + b`. -/
def mix5 (o : MixOperands) : Word :=
  (o.c - o.a) + o.b

/-- `mix_6`: R87, `(a - b) + c`. -/
def mix6 (o : MixOperands) : Word :=
  (o.a - o.b) + o.c

/-- `mix_7`: R88, `b * c + a`. -/
def mix7 (o : MixOperands) : Word :=
  o.b * o.c + o.a

/-- `mix_8`: R89, `c * a + b`. -/
def mix8 (o : MixOperands) : Word :=
  o.c * o.a + o.b

/-- `mix_9`: R90, `(a * b) * c`. -/
def mix9 (o : MixOperands) : Word :=
  (o.a * o.b) * o.c

/-- `mix_10`: R91, the remainder of `udiv(a, b, c | 1)`. PRESUMED by the spec itself (93 G7; log 5). -/
def mix10 (o : MixOperands) : Word :=
  (udiv o.a o.b (o.c ||| 1)).2.2

/-- `mix_11`: R92, a 128-bit remainder with a guard. PRESUMED by the spec itself (93 G7; log 5). -/
def mix11 (o : MixOperands) : Word :=
  let t1 := combine o.b o.c
  let t2 := combine (rotl64 o.result o.r.toNat) (o.a ||| 2)
  if t1 < t2 then o.c else lo64 (div128w t1 t2).2

/-- `mix_12`: R93, `qlo` of `udiv(c, a, b | 4)`. PRESUMED by the spec itself (93 G7; log 5). -/
def mix12 (o : MixOperands) : Word :=
  (udiv o.c o.a (o.b ||| 4)).1

/-- `mix_13`: R94, a 128-bit quotient with a guard. PRESUMED by the spec itself (93 G7; log 5). -/
def mix13 (o : MixOperands) : Word :=
  let t1 := combine (rotl64 o.result o.r.toNat) o.b
  let t2 := combine o.a (o.c ||| 8)
  if t2 < t1 then lo64 (div128w t1 t2).1 else o.a ^^^ o.b

/-- `mix_14`: R95, `hi64(mul128x64(b, a, c))`. -/
def mix14 (o : MixOperands) : Word :=
  hi64 (mul128x64 o.b o.a o.c)

/-- `mix_15`: R96, `hi64(mul128x128(a, c, rotr64(result, r), b))`. -/
def mix15 (o : MixOperands) : Word :=
  hi64 (mul128x128 o.a o.c (rotr64 o.result o.r.toNat) o.b)

/-- The mixing table (R80): `mix_k` for the 4-bit `k`. -/
def mixTable (k : BitVec 4) (o : MixOperands) : Word :=
  match k.toNat with
  | 0 => mix0 o
  | 1 => mix1 o
  | 2 => mix2 o
  | 3 => mix3 o
  | 4 => mix4 o
  | 5 => mix5 o
  | 6 => mix6 o
  | 7 => mix7 o
  | 8 => mix8 o
  | 9 => mix9 o
  | 10 => mix10 o
  | 11 => mix11 o
  | 12 => mix12 o
  | 13 => mix13 o
  | 14 => mix14 o
  | _ => mix15 o

/-- `sel(result, c)` (R97): the low 4 bits of `rotl64(result, c)`. -/
def mixSelect (result c : Word) : BitVec 4 := (rotl64 result c.toNat).extractLsb' 0 4

/-- The next `result` (43_mixer.md R117). -/
def mixResult (result v : Word) : Word := rotl64 (result ^^^ v) 1

/-- What a MIXOP.k writes (R80): the value, `k`, 0, 0. -/
def writeMix (k : Word) (v : Word) (s : State) : State := writeResults v k 0 0 s

/-- What MIXOP.0 writes (R81). -/
def mixop0Effect (s : State) : State := writeMix 0 (mix0 (mixOperands s)) s

/-- MIXOP.0 (R81). -/
def execMixop0 (s : State) : Host.Outcome State Fault Refusal := runCommand .mixop0 mixop0Effect s

/-- What MIXOP.1 writes (R82). -/
def mixop1Effect (s : State) : State := writeMix 1 (mix1 (mixOperands s)) s

/-- MIXOP.1 (R82). -/
def execMixop1 (s : State) : Host.Outcome State Fault Refusal := runCommand .mixop1 mixop1Effect s

/-- What MIXOP.2 writes (R83). -/
def mixop2Effect (s : State) : State := writeMix 2 (mix2 (mixOperands s)) s

/-- MIXOP.2 (R83). -/
def execMixop2 (s : State) : Host.Outcome State Fault Refusal := runCommand .mixop2 mixop2Effect s

/-- What MIXOP.3 writes (R84). -/
def mixop3Effect (s : State) : State := writeMix 3 (mix3 (mixOperands s)) s

/-- MIXOP.3 (R84). -/
def execMixop3 (s : State) : Host.Outcome State Fault Refusal := runCommand .mixop3 mixop3Effect s

/-- What MIXOP.4 writes (R85). -/
def mixop4Effect (s : State) : State := writeMix 4 (mix4 (mixOperands s)) s

/-- MIXOP.4 (R85). -/
def execMixop4 (s : State) : Host.Outcome State Fault Refusal := runCommand .mixop4 mixop4Effect s

/-- What MIXOP.5 writes (R86). -/
def mixop5Effect (s : State) : State := writeMix 5 (mix5 (mixOperands s)) s

/-- MIXOP.5 (R86). -/
def execMixop5 (s : State) : Host.Outcome State Fault Refusal := runCommand .mixop5 mixop5Effect s

/-- What MIXOP.6 writes (R87). -/
def mixop6Effect (s : State) : State := writeMix 6 (mix6 (mixOperands s)) s

/-- MIXOP.6 (R87). -/
def execMixop6 (s : State) : Host.Outcome State Fault Refusal := runCommand .mixop6 mixop6Effect s

/-- What MIXOP.7 writes (R88). -/
def mixop7Effect (s : State) : State := writeMix 7 (mix7 (mixOperands s)) s

/-- MIXOP.7 (R88). -/
def execMixop7 (s : State) : Host.Outcome State Fault Refusal := runCommand .mixop7 mixop7Effect s

/-- What MIXOP.8 writes (R89). -/
def mixop8Effect (s : State) : State := writeMix 8 (mix8 (mixOperands s)) s

/-- MIXOP.8 (R89). -/
def execMixop8 (s : State) : Host.Outcome State Fault Refusal := runCommand .mixop8 mixop8Effect s

/-- What MIXOP.9 writes (R90). -/
def mixop9Effect (s : State) : State := writeMix 9 (mix9 (mixOperands s)) s

/-- MIXOP.9 (R90). -/
def execMixop9 (s : State) : Host.Outcome State Fault Refusal := runCommand .mixop9 mixop9Effect s

/-- What MIXOP.10 writes (R91). -/
def mixop10Effect (s : State) : State := writeMix 10 (mix10 (mixOperands s)) s

/-- MIXOP.10 (R91). -/
def execMixop10 (s : State) : Host.Outcome State Fault Refusal :=
  runCommand .mixop10 mixop10Effect s

/-- What MIXOP.11 writes (R92). -/
def mixop11Effect (s : State) : State := writeMix 11 (mix11 (mixOperands s)) s

/-- MIXOP.11 (R92). -/
def execMixop11 (s : State) : Host.Outcome State Fault Refusal :=
  runCommand .mixop11 mixop11Effect s

/-- What MIXOP.12 writes (R93). -/
def mixop12Effect (s : State) : State := writeMix 12 (mix12 (mixOperands s)) s

/-- MIXOP.12 (R93). -/
def execMixop12 (s : State) : Host.Outcome State Fault Refusal :=
  runCommand .mixop12 mixop12Effect s

/-- What MIXOP.13 writes (R94). -/
def mixop13Effect (s : State) : State := writeMix 13 (mix13 (mixOperands s)) s

/-- MIXOP.13 (R94). -/
def execMixop13 (s : State) : Host.Outcome State Fault Refusal :=
  runCommand .mixop13 mixop13Effect s

/-- What MIXOP.14 writes (R95). -/
def mixop14Effect (s : State) : State := writeMix 14 (mix14 (mixOperands s)) s

/-- MIXOP.14 (R95). -/
def execMixop14 (s : State) : Host.Outcome State Fault Refusal :=
  runCommand .mixop14 mixop14Effect s

/-- What MIXOP.15 writes (R96). -/
def mixop15Effect (s : State) : State := writeMix 15 (mix15 (mixOperands s)) s

/-- MIXOP.15 (R96). -/
def execMixop15 (s : State) : Host.Outcome State Fault Refusal :=
  runCommand .mixop15 mixop15Effect s

/-- What MIXAUTO writes (R98). -/
def mixautoEffect (s : State) : State :=
  let k := mixSelect (x3 s) (x2 s)
  let v := mixTable k (mixOperands s)
  writeResults v (k.zeroExtend 64) (mixResult (x3 s) v) 0 s

/-- MIXAUTO (R98). -/
def execMixauto (s : State) : Host.Outcome State Fault Refusal :=
  runCommand .mixauto mixautoEffect s

end Sys2Proof.Machine
end

