-- ==== Sys2Proof/Machine/Mixer.lean ====
section
/-!
DEFINITION. The memory-mixer datapath, Stage 3 (43_mixer.md), and the meaning of MIXPASS.
-/

namespace Sys2Proof.Machine

/-- `SP[k]` of a list of words. Every Stage 3 access is in range (R121; log 15). -/
def wordAt (sp : List Word) (k : Nat) : Word := sp.getD k 0

/-- The loop state of the inner steps (10_state.md R33): the scratch words, the rolling index and the
rolling value. -/
structure MixState where
  sp : List Word
  r : Nat
  result : Word
  deriving DecidableEq, Repr

/-- The loop state of the outer rounds (10_state.md R33). -/
structure RoundState where
  sp : List Word
  r : Nat
  addrA : Word
  addrB : Word
  deriving DecidableEq, Repr

/-- The index advance, step 4b (R115). -/
def advance (m r : Nat) : Nat := if r < m - 1 then r + 1 else 0

/-- The operands of the operation of inner step `j` of round `i`, steps 4a to 4c (R114 to R116): `b`
is read with `r` before its advance, and the operation gets `r` after it. -/
def stepOperands (m i j : Nat) (st : MixState) : MixOperands where
  a := wordAt st.sp (st.result.toNat % Config.half m)
  b := wordAt st.sp (Config.half m + (~~~ rotr64 st.result st.r).toNat % Config.half m)
  c := wordAt st.sp st.r
  result := st.result
  r := BitVec.ofNat 64 (advance m st.r)
  i := BitVec.ofNat 64 i
  j := BitVec.ofNat 64 j

/-- The write-back, step 4e (R118), with `result` after step 4d. -/
def writeBack (m j : Nat) (result : Word) (sp : List Word) : List Word :=
  let t := wordAt sp (Config.half m - 1 - j) ^^^ result
  let sp' := sp.set (Config.half m - 1 - j) t
  sp'.set (Config.half m + j) (wordAt sp' (Config.half m + j) ^^^ rotr64 t result.toNat)

/-- Inner step `j` of outer round `i`, steps 4a to 4e (R114 to R118). -/
def innerStep (m i : Nat) (st : MixState) (j : Nat) : MixState :=
  let o := stepOperands m i j st
  let v := mixTable (mixSelect st.result o.c) o
  let result := mixResult st.result v
  { sp := writeBack m j result st.sp, r := advance m st.r, result := result }

/-- The rolling value an outer round starts from, steps 1 to 3 (R113). -/
def roundStart (m : Nat) (key : List Byte) (st : RoundState) : Word :=
  let memA := wordAt st.sp (st.addrA.toNat % Config.half m)
  let memB := wordAt st.sp (Config.half m + st.addrB.toNat % Config.half m)
  let hash1 := unle64 (slice (aesRound (le64 memB ++ le64 memA) key) 0 8)
  ~~~ (hash1 ^^^ (memA ^^^ memB))

/-- The `H` inner steps of outer round `i` (R120). -/
def innerLoop (m i : Nat) (st : MixState) : MixState :=
  (List.range (Config.half m)).foldl (innerStep m i) st

/-- Outer round `i` (R113 to R119). -/
def outerRound (m : Nat) (key : List Byte) (st : RoundState) (i : Nat) : RoundState :=
  let e := innerLoop m i { sp := st.sp, r := st.r, result := roundStart m key st }
  { sp := e.sp, r := e.r, addrA := e.result, addrB := integerSqrt e.result }

/-- The initialization (R112). -/
def mixStart (m : Nat) (sp : List Word) : RoundState where
  sp := sp
  r := 0
  addrA := wordAt sp (m - 1)
  addrB := wordAt sp (Config.half m - 1) >>> 32

/-- `stage3(SP, AESKEY)` (R120). -/
def stage3 (m : Nat) (sp : List Word) (key : List Byte) : List Word :=
  ((List.range Config.iters).foldl (outerRound m key) (mixStart m sp)).sp

/-- What MIXPASS writes (R110). -/
def mixpassEffect (s : State) : State :=
  mixScratch (stage3 s.memWords (scratchWords s) (aesKey s)) s

/-- MIXPASS (R110). -/
def execMixpass (s : State) : Host.Outcome State Fault Refusal :=
  runCommand .mixpass mixpassEffect s

end Sys2Proof.Machine
end

