-- ==== Sys2Proof/Machine/Finalizer.lean ====
section
/-!
DEFINITION. The hash finalizer and the whole pipeline (44_finalizer.md): the meanings of FINALIZE and
HASH.
-/

namespace Sys2Proof.Machine

/-- `Hash32(SPbytes(0, O))` (R122). -/
def scratchDigest (s : State) : List Byte :=
  (Config.hash32 (scratchBytes s 0 (Config.sizeBytes s.memWords))).toList

/-- What FINALIZE writes (R122). -/
def finalizeEffect (s : State) : State := writeDigest (scratchDigest s) s

/-- FINALIZE (R122). -/
def execFinalize (s : State) : Host.Outcome State Fault Refusal :=
  runCommand .finalize finalizeEffect s

/-- The mixed scratch words of one attempt (R123): Stage 1, then Stage 3. -/
def hashWords (s : State) : List Word := stage3 s.memWords (stage1Of s) (aesKey s)

/-- What HASH writes (R123). -/
def hashEffect (s : State) : State :=
  let w := hashWords s
  writeDigest (Config.hash32 (wordsToBytes w)).toList (writeScratchAll w s)

/-- HASH (R123). -/
def execHash (s : State) : Host.Outcome State Fault Refusal := runCommand .hash hashEffect s

end Sys2Proof.Machine
end

