-- ==== Sys2Proof/Machine/Dispatch.lean ====
section
/-!
DEFINITION. One arm per command (30_encoding.md R54).
-/

namespace Sys2Proof.Machine

def exec (i : Instr) (s : State) : Host.Outcome State Fault Refusal :=
  match i with
  | .nop => Sys2Proof.Machine.execNop s
  | .rotl => Sys2Proof.Machine.execRotl s
  | .rotr => Sys2Proof.Machine.execRotr s
  | .div128 => Sys2Proof.Machine.execDiv128 s
  | .udiv => Sys2Proof.Machine.execUdiv s
  | .isqrt => Sys2Proof.Machine.execIsqrt s
  | .mulhi => Sys2Proof.Machine.execMulhi s
  | .mulhi128 => Sys2Proof.Machine.execMulhi128 s
  | .divw => Sys2Proof.Machine.execDivw s
  | .mixop0 => Sys2Proof.Machine.execMixop0 s
  | .mixop1 => Sys2Proof.Machine.execMixop1 s
  | .mixop2 => Sys2Proof.Machine.execMixop2 s
  | .mixop3 => Sys2Proof.Machine.execMixop3 s
  | .mixop4 => Sys2Proof.Machine.execMixop4 s
  | .mixop5 => Sys2Proof.Machine.execMixop5 s
  | .mixop6 => Sys2Proof.Machine.execMixop6 s
  | .mixop7 => Sys2Proof.Machine.execMixop7 s
  | .mixop8 => Sys2Proof.Machine.execMixop8 s
  | .mixop9 => Sys2Proof.Machine.execMixop9 s
  | .mixop10 => Sys2Proof.Machine.execMixop10 s
  | .mixop11 => Sys2Proof.Machine.execMixop11 s
  | .mixop12 => Sys2Proof.Machine.execMixop12 s
  | .mixop13 => Sys2Proof.Machine.execMixop13 s
  | .mixop14 => Sys2Proof.Machine.execMixop14 s
  | .mixop15 => Sys2Proof.Machine.execMixop15 s
  | .mixauto => Sys2Proof.Machine.execMixauto s
  | .expand => Sys2Proof.Machine.execExpand s
  | .mixpass => Sys2Proof.Machine.execMixpass s
  | .finalize => Sys2Proof.Machine.execFinalize s
  | .hash => Sys2Proof.Machine.execHash s

end Sys2Proof.Machine
end

