-- ==== Sys2Proof/Machine/HostPort.lean ====
section
/-!
DEFINITION. The host's side of the block: the CSR map (10_state.md R19), the four accesses
(20_memory.md R41 to R44), submission by a CMD write (10_state.md R22), the unit's turn
(70_reset_and_hazards.md R159), and the host-program notation (30_encoding.md R57, R58).
-/

namespace Sys2Proof.Machine

/-- The register at a CSR index (R19). -/
def csrAt (idx : BitVec 7) : CsrReg :=
  let n := idx.toNat
  if n = 0x00 then .caps
  else if n = 0x01 then .status
  else if n = 0x02 then .cmd
  else if n = 0x03 then .ctrl
  else if n = 0x04 then .errinfo
  else if n = 0x05 then .nonceLo
  else if n = 0x06 then .nonceHi
  else if n < 0x08 then .reserved
  else if h : n - 0x08 < 7 then .x ⟨n - 0x08, h⟩
  else if n < 0x10 then .reserved
  else if h : n - 0x10 < 4 then .y ⟨n - 0x10, h⟩
  else if n < 0x20 then .reserved
  else if h : n - 0x20 < 14 then .inp ⟨n - 0x20, h⟩
  else if n < 0x30 then .reserved
  else if h : n - 0x30 < 16 then .sk ⟨n - 0x30, h⟩
  else if h : n - 0x40 < 2 then .ak ⟨n - 0x40, h⟩
  else if n < 0x48 then .reserved
  else if h : n - 0x48 < 4 then .dg ⟨n - 0x48, h⟩
  else .reserved

/-- The CSR index of a register (R19). -/
def csrIndex (r : CsrReg) : BitVec 7 :=
  match r with
  | .caps => 0x00
  | .status => 0x01
  | .cmd => 0x02
  | .ctrl => 0x03
  | .errinfo => 0x04
  | .nonceLo => 0x05
  | .nonceHi => 0x06
  | .x n => 0x08 + BitVec.ofNat 7 n
  | .y n => 0x10 + BitVec.ofNat 7 n
  | .inp n => 0x20 + BitVec.ofNat 7 n
  | .sk n => 0x30 + BitVec.ofNat 7 n
  | .ak n => 0x40 + BitVec.ofNat 7 n
  | .dg n => 0x48 + BitVec.ofNat 7 n
  | .reserved => 0x7F

/-- The value a read of a register returns while the block is not busy (R41; R20 to R30). -/
def csrValue (r : CsrReg) (s : State) : Word :=
  match r with
  | .caps => caps s
  | .status => status s
  | .cmd => 0
  | .ctrl => ctrlWord s
  | .errinfo => s.errInfo
  | .nonceLo => s.nonceLo
  | .nonceHi => s.nonceHi.zeroExtend 64
  | .x n => s.x[n]
  | .y n => s.y[n]
  | .inp n => s.inp[n]
  | .sk n => s.sk[n]
  | .ak n => s.ak[n]
  | .dg n => s.dg[n]
  | .reserved => 0

/-- The registers a read may name while BUSY = 1 (R41). -/
def readableWhileBusy (r : CsrReg) : Bool :=
  match r with
  | .caps | .status | .ctrl | .errinfo => true
  | .cmd | .nonceLo | .nonceHi | .x _ | .y _ | .inp _ | .sk _ | .ak _ | .dg _ | .reserved => false

/-- Host CSR read (R41). -/
def csrRead (idx : BitVec 7) (s : State) : State :=
  if busy s && !readableWhileBusy (csrAt idx) then
    deliver 0 (raise .busyAccess (csrInfo false idx) s)
  else deliver (csrValue (csrAt idx) s) s

/-- A write to a register that only stores (R42): the operand, nonce and data registers, with the
written bit of the data registers (R31). Read-only and reserved registers ignore it (R30). -/
def storeCsr (r : CsrReg) (v : Word) (s : State) : State :=
  match r with
  | .x n => { s with x := s.x.set n v }
  | .nonceLo => { s with nonceLo := v }
  | .nonceHi => { s with nonceHi := v.extractLsb' 0 32 }
  | .inp n => { s with inp := s.inp.set n v, inW := s.inW.set n true }
  | .sk n => { s with sk := s.sk.set n v, skW := s.skW.set n true }
  | .ak n => { s with ak := s.ak.set n v, akW := s.akW.set n true }
  | .caps | .status | .cmd | .ctrl | .errinfo | .y _ | .dg _ | .reserved => s

/-- Submission of a word written to CMD (R22, R139). A legal word goes to its command's meaning, which
makes the rest of R139's checks. -/
def writeCmd (w : Word) (s : State) : Host.Outcome State Fault Refusal :=
  match decode w with
  | some i => exec i s
  | none => .next (submit w none none s)

/-- Host CSR write (R42). -/
def csrWrite (idx : BitVec 7) (v : Word) (s : State) : Host.Outcome State Fault Refusal :=
  if busy s && csrAt idx != .ctrl then .next (raise .busyAccess (csrInfo true idx) s)
  else
    match csrAt idx with
    | .cmd => writeCmd v s
    | .ctrl => .next (writeCtrl v s)
    | r => .next (storeCsr r v s)

/-- Host scratch read (R43). A word that was not written since reset reads as a free value (93 U1). -/
def spmRead (k : BitVec 32) (s : State) : State :=
  if busy s then deliver 0 (raise .busyAccess (spmInfo false k) s)
  else if s.memWords ≤ k.toNat then deliver 0 (raise .spmRange (spmInfo false k) s)
  else if indexIn s.spW k.toNat then deliver (scratchWord s k.toNat) s
  else deliver (Config.unwrittenRead s.freeReads) (countFreeRead s)

/-- Host scratch write (R44). -/
def spmWrite (k : BitVec 32) (v : Word) (s : State) : State :=
  if busy s then raise .busyAccess (spmInfo true k) s
  else if s.memWords ≤ k.toNat then raise .spmRange (spmInfo true k) s
  else writeScratchWord k.toNat v s

/-- One host access (R40). -/
def hostAccess (a : Access) (s : State) : Host.Outcome State Fault Refusal :=
  match a with
  | .csrRead idx => .next (csrRead idx s)
  | .csrWrite idx v => csrWrite idx v s
  | .spmRead k => .next (spmRead k s)
  | .spmWrite k v => .next (spmWrite k v s)

/-- The unit's turn: the completion step where a command is in flight (R159), and nothing where the
block is quiescent (R149, R160). -/
def unitTurn (s : State) : Host.Outcome State Fault Refusal :=
  match s.inflight with
  | some i => exec i s
  | none => .next s

/-- What one event does (R14). -/
def runEvent (e : Event) (s : State) : Host.Outcome State Fault Refusal :=
  match e with
  | .host a => hostAccess a s
  | .unit => unitTurn s
  | .hardwareReset => .next (hardReset s)

/-- The event the agents take next, and the state without it. With nothing planned the unit's turn is
the only enabled step (R159, R160; log 14). -/
def nextEvent (s : State) : Event × State :=
  match s.agenda with
  | [] => (.unit, s)
  | e :: es => (e, { s with agenda := es })

/-- The host's next access is the CMD write of `w`: where the block takes its next command (R22;
log 8). -/
def planCommand (w : Word) (s : State) : State :=
  { s with agenda := .host (.csrWrite cmdIndex w) :: s.agenda }

/-- The accesses a line of a host program stands for (R57, R58). -/
def HostLine.accesses (l : HostLine) : List Access :=
  match l with
  | .csrw idx imm => [.csrWrite idx imm]
  | .csrr idx => [.csrRead idx]
  | .spw k imm => [.spmWrite k imm]
  | .spr k => [.spmRead k]
  | .command i => [.csrWrite cmdIndex (encode i)]
  | .li n imm => [.csrWrite (csrIndex (.x n)) imm]
  | .poll => [.csrRead (csrIndex .status)]
  | .clrdone ie => [.csrWrite (csrIndex .ctrl) (if ie then 6 else 4)]
  | .srst => [.csrWrite (csrIndex .ctrl) 1]
  | .ldkey k0 k1 => [.csrWrite (csrIndex (.ak 0)) k0, .csrWrite (csrIndex (.ak 1)) k1]

/-- The host events of a straight-line host program (R57). -/
def hostProgram (ls : List HostLine) : List Event :=
  ls.flatMap fun l => (HostLine.accesses l).map .host

end Sys2Proof.Machine
end

