-- ==== Sys2Proof/Machine/Step.lean ====
section
/-!
DEFINITION. One step of the block: one event of one agent (10_state.md R14).
-/

namespace Sys2Proof.Machine

/-- One step: the next event of the agents (log 6, 14). -/
def step (s : State) : Host.Outcome State Fault Refusal :=
  runEvent (nextEvent s).1 (nextEvent s).2

/-- The state whose next event is the CMD write of the given command word (log 8). -/
def State.withFetchWord (s : State) (nbits w : Nat) : State := planCommand (commandWord nbits w) s

end Sys2Proof.Machine
end

