-- ==== Sys2Proof/Safety.lean ====
section
/-!
DEFINITION. The terms in which safe runs are stated: the invariant of the block, the states that
accept a command, and what the host may do while one runs.
-/

namespace Sys2Proof.Machine

/-- The block accepts a command: nothing in flight and no fault recorded (10_state.md R32). -/
def Ready (s : State) : Prop := s.inflight = none ∧ s.fault = none

/-- The accesses that have an effect while BUSY = 1 (70_reset_and_hazards.md R154): reads of CAPS,
STATUS, CTRL, ERRINFO and writes of CTRL. -/
def allowedWhileBusy (a : Access) : Bool :=
  match a with
  | .csrRead idx => readableWhileBusy (csrAt idx)
  | .csrWrite idx _ => csrAt idx == .ctrl
  | .spmRead _ => false
  | .spmWrite _ _ => false

/-- The event is a reset (R150): the hardware input, or a CTRL write with SRST = 1. -/
def Event.isReset (e : Event) : Bool :=
  match e with
  | .hardwareReset => true
  | .host (.csrWrite idx v) => csrAt idx == .ctrl && v.getLsbD 0
  | .host (.csrRead _) => false
  | .host (.spmRead _) => false
  | .host (.spmWrite _ _) => false
  | .unit => false

/-- The event is a host access, and no CTRL write with SRST = 1. -/
def Event.isPlainHost (e : Event) : Bool :=
  match e with
  | .hardwareReset => false
  | .host _ => !e.isReset
  | .unit => false

/-- The chaining digests of Stage 1 (42_keystream.md R103, R104): `H_0 = Hash32(IB)` and
`H_{i+1} = Hash32(H_i ++ subkey_i)`. -/
def digestChain (hash32 : List Byte → Vector Byte 32) (ib km : List Byte) : Nat → List Byte
  | 0 => (hash32 ib).toList
  | i + 1 => (hash32 (digestChain hash32 ib km i ++ subKey km i)).toList

/-- Outer round `i` of Stage 3 as 43_mixer.md R113, R119 and R120 give it, as a relation between the
words, the rolling index and the addresses before and after: `steps j` is what inner step `j` starts
from. -/
def IsOuterRound (m i : Nat) (key : List Byte) (st st' : RoundState) : Prop :=
  ∃ (memA memB hash1 : Word) (steps : Nat → MixState),
    memA = wordAt st.sp (st.addrA.toNat % (m / 2)) ∧
    memB = wordAt st.sp (m / 2 + st.addrB.toNat % (m / 2)) ∧
    le64 hash1 = (aesRound (le64 memB ++ le64 memA) key).take 8 ∧
    steps 0 = { sp := st.sp, r := st.r, result := ~~~(hash1 ^^^ (memA ^^^ memB)) } ∧
    (∀ j < m / 2, steps (j + 1) = innerStep m i (steps j) j) ∧
    st'.sp = (steps (m / 2)).sp ∧ st'.r = (steps (m / 2)).r ∧
    st'.addrA = (steps (m / 2)).result ∧ st'.addrB = integerSqrt (steps (m / 2)).result

/-- Stage 3 as 43_mixer.md R112 and R120 give it, as a relation between the words before and after:
three rounds from the initialization, the rolling index and the addresses kept from one to the next. -/
def IsStageThree (m : Nat) (key : List Byte) (sp sp' : List Word) : Prop :=
  ∃ st0 st1 st2 st3 : RoundState,
    st0 = { sp := sp, r := 0, addrA := wordAt sp (m - 1), addrB := wordAt sp (m / 2 - 1) >>> 32 } ∧
    IsOuterRound m 0 key st0 st1 ∧ IsOuterRound m 1 key st1 st2 ∧ IsOuterRound m 2 key st2 st3 ∧
    sp' = st3.sp

/-- The commands that write Y (10_state.md R18): the wide-arithmetic and mixing commands. -/
def writesResults (i : Instr) : Bool :=
  match i with
  | .rotl | .rotr | .div128 | .udiv | .isqrt | .mulhi | .mulhi128 | .divw => true
  | .mixop0 | .mixop1 | .mixop2 | .mixop3 | .mixop4 | .mixop5 | .mixop6 | .mixop7 => true
  | .mixop8 | .mixop9 | .mixop10 | .mixop11 | .mixop12 | .mixop13 | .mixop14 | .mixop15 => true
  | .mixauto => true
  | .nop | .expand | .mixpass | .finalize | .hash => false

/-- The commands that write scratch words (20_memory.md R38). -/
def writesScratch (i : Instr) : Bool :=
  match i with
  | .expand | .mixpass | .hash => true
  | .nop | .rotl | .rotr | .div128 | .udiv | .isqrt | .mulhi | .mulhi128 | .divw => false
  | .mixop0 | .mixop1 | .mixop2 | .mixop3 | .mixop4 | .mixop5 | .mixop6 | .mixop7 => false
  | .mixop8 | .mixop9 | .mixop10 | .mixop11 | .mixop12 | .mixop13 | .mixop14 | .mixop15 => false
  | .mixauto | .finalize => false

/-- The commands that write the digest (10_state.md R29). -/
def writesDigest (i : Instr) : Bool :=
  match i with
  | .finalize | .hash => true
  | .nop | .rotl | .rotr | .div128 | .udiv | .isqrt | .mulhi | .mulhi128 | .divw => false
  | .mixop0 | .mixop1 | .mixop2 | .mixop3 | .mixop4 | .mixop5 | .mixop6 | .mixop7 => false
  | .mixop8 | .mixop9 | .mixop10 | .mixop11 | .mixop12 | .mixop13 | .mixop14 | .mixop15 => false
  | .mixauto | .expand | .mixpass => false

/-- The invariant of the block. -/
structure BlockInv (s : State) : Prop where
  /-- `M` is a legal size (00_scope.md R5). -/
  size : Config.validSize s.memWords = true
  /-- The scratch memory has its canonical form. -/
  scratchWf : Memory.wf s.scratch = true
  /-- Every byte of it lies below `O` (20_memory.md R36). -/
  scratchRange : ∀ c ∈ s.scratch, c.1 < Config.sizeBytes s.memWords
  /-- The set of written words has its canonical form. -/
  spWf : indexWfFrom 0 s.spW = true
  /-- Every written word exists (20_memory.md R44). -/
  spRange : ∀ k ∈ s.spW, k < s.memWords
  /-- A written word holds eight known bytes (10_state.md R31). -/
  spListed : ∀ k ∈ s.spW, ∀ b < 8, (Memory.read s.scratch (8 * k + b)).isSome = true
  /-- The command in flight passed its checks, and its inputs are frozen (60_exceptions.md R139;
  70_reset_and_hazards.md R156). -/
  contract : ∀ i, s.inflight = some i → commandCheck i s = none
  /-- DONE is 0 from acceptance to completion (10_state.md R21, R32). -/
  busyNotDone : busy s = true → s.done = false
  /-- An input word that was not written since reset is 0 (10_state.md R26, R35). -/
  inpUnwritten : ∀ n : Fin 14, s.inW[n] = false → s.inp[n] = 0
  /-- A sub-key word that was not written since reset is 0 (10_state.md R27, R35). -/
  skUnwritten : ∀ n : Fin 16, s.skW[n] = false → s.sk[n] = 0
  /-- A round-key word that was not written since reset is 0 (10_state.md R28, R35). -/
  akUnwritten : ∀ n : Fin 2, s.akW[n] = false → s.ak[n] = 0
  /-- Without a digest since reset, DG is 0 (10_state.md R29, R35). -/
  digestUnwritten : s.dgv = false → s.dg = Vector.replicate 4 0
  /-- Without a fault, ERRINFO is 0 (10_state.md R24, R35). -/
  faultUnrecorded : s.fault = none → s.errInfo = 0

end Sys2Proof.Machine
end

