-- ==== Sys2Proof/Certificates/Slice0/Obligations.lean ====
section
/-!
DEFINITION. The statements for the provers, in the order of OBLIGATIONS.json. A command's own effect
is stated of the state in which it is in flight (70_reset_and_hazards.md R159); a command's submission
of the state in which it is not (60_exceptions.md R139).
-/

open Sys2Proof Sys2Proof.Machine

/-! ## Encoding and the step -/

/-- 30_encoding.md R54, R55: decoding and encoding agree in both directions, on all 64-bit words. -/
def Obligations.DecodeAgreesWithEncode : Prop :=
  ∀ (w : Word) (i : Instr), decode w = some i ↔ w = encode i

/-- 30_encoding.md R55: the three ways a word is illegal, what a legal word is, and what an illegal
one does. -/
def Obligations.DecodeIsTotal : Prop :=
  (∀ w : Word, decode w = none ↔
    w.extractLsb' 12 52 ≠ 0 ∨ w.extractLsb' 0 8 ∉ opcColumn ∨
      (w.extractLsb' 0 8 ≠ 0x10 ∧ w.extractLsb' 8 4 ≠ 0)) ∧
  (∀ (w : Word) (i : Instr), decode w = some i →
    w.extractLsb' 0 8 = (encodeFields i).opc ∧ w.extractLsb' 8 4 = (encodeFields i).sel) ∧
  (∀ (w : Word) (s : State), Ready s → decode w = none →
    csrWrite cmdIndex w s =
      .next { s with fault := some .illegalCmd, errInfo := commandInfo w s })

/-- 30_encoding.md R54: one word of each family, and four illegal words, written out. -/
def Obligations.SampleWordsDecode : Prop :=
  decode 0x0000000000000000 = some .nop ∧ decode 0x0000000000000002 = some .rotr ∧
  decode 0x0000000000000008 = some .divw ∧ decode 0x0000000000000F10 = some .mixop15 ∧
  decode 0x0000000000000110 = some .mixop1 ∧ decode 0x0000000000000011 = some .mixauto ∧
  decode 0x0000000000000020 = some .expand ∧ decode 0x0000000000000021 = some .mixpass ∧
  decode 0x0000000000000023 = some .hash ∧ decode 0x0000000000000103 = none ∧
  decode 0x0000000000000009 = none ∧ decode 0x0000000000001000 = none ∧
  decode 0x8000000000000010 = none

/-- 10_state.md R22, 70_reset_and_hazards.md R159: a step runs the command that the CMD write holds
or that is in flight. The model's choices in it: `exec` is the completion step where the command is in
flight and the submission otherwise (log 9, DEDUCED); with no event planned the unit takes its turn
(log 14), where R159 says only that the completion step happens eventually; `withFetchWord` plans the
CMD write (log 8); the events come in the order of the agenda (log 6). -/
def Obligations.StepRunsTheCommand : Prop :=
  (∀ (s : State) (w : Word) (i : Instr) (rest : List Event),
    s.agenda = .host (.csrWrite cmdIndex w) :: rest → decode w = some i → s.inflight = none →
    step s = exec i { s with agenda := rest }) ∧
  (∀ (s : State) (i : Instr), s.agenda = [] → s.inflight = some i → step s = exec i s) ∧
  (∀ (s : State) (i : Instr) (rest : List Event),
    s.agenda = .unit :: rest → s.inflight = some i →
    step s = exec i { s with agenda := rest }) ∧
  (∀ (s : State) (nbits w : Nat) (i : Instr),
    decodeTableWord nbits w = some i → s.inflight = none →
    step (s.withFetchWord nbits w) = exec i s)

/-- 70_reset_and_hazards.md R160, 60_exceptions.md R149: a quiescent block does nothing of its own.
That a step with an empty agenda is the unit's turn is the model's choice (log 14). -/
def Obligations.QuiescentBlockStays : Prop :=
  ∀ s : State, s.inflight = none →
    unitTurn s = .next s ∧ (s.agenda = [] → step s = .next s) ∧
    (∀ rest, s.agenda = .unit :: rest → step s = .next { s with agenda := rest })

/-! ## Submission and faults -/

/-- 60_exceptions.md R139: the checks of a submission, in their order; a fault and a completion never
coincide. -/
def Obligations.SubmissionChecksInOrder : Prop :=
  ∀ (w : Word) (s : State),
    (busy s = true →
      csrWrite cmdIndex w s = .next (raise .busyAccess (csrInfo true cmdIndex) s)) ∧
    (busy s = false → faulted s = true → csrWrite cmdIndex w s = .next s) ∧
    (Ready s → decode w = none →
      csrWrite cmdIndex w s = .next (raise .illegalCmd (commandInfo w s) s)) ∧
    (∀ i, Ready s → decode w = some i →
      csrWrite cmdIndex w s =
        if (i = .expand ∧ (inv s = false ∨ skv s = false)) ∨
            (i = .mixpass ∧ (spv s = false ∨ akv s = false)) ∨
            (i = .finalize ∧ spv s = false) ∨
            (i = .hash ∧ (inv s = false ∨ skv s = false ∨ akv s = false)) then
          .next (raise .cfgInvalid (commandInfo w s) s)
        else if ((i = .div128 ∨ i = .udiv) ∧ x2 s = 0) ∨
            (i = .divw ∧ x2 s = 0 ∧ x3 s = 0) then
          .next (raise .divZero (commandInfo w s) s)
        else if i = .div128 ∧ x2 s ≤ x0 s then
          .next (raise .divOverflow (commandInfo w s) s)
        else .next (accept i s)) ∧
    (∀ (k : BitVec 32) (v : Word), busy s = true → s.memWords ≤ k.toNat →
      spmWrite k v s = raise .busyAccess (spmInfo true k) s ∧
      spmRead k s = deliver 0 (raise .busyAccess (spmInfo false k) s)) ∧
    (∀ (e : Event) (t : State), runEvent e s = .next t → s.fault = none → t.fault ≠ none →
      t.inflight = s.inflight ∧ t.done = s.done)

/-- 60_exceptions.md R142: a command that faults leaves nothing but the record, and no command faults
after its submission. -/
def Obligations.CommandFaultIsPrecise : Prop :=
  (∀ (w : Word) (s t : State), Ready s → csrWrite cmdIndex w s = .next t → t.fault ≠ none →
    t = { s with fault := t.fault, errInfo := commandInfo w s }) ∧
  (∀ (i : Instr) (s t : State), s.inflight = some i → exec i s = .next t →
    t.fault = s.fault ∧ t.errInfo = s.errInfo)

/-- 60_exceptions.md R134: the valid bits each pipeline command requires, and that AUX records them. -/
def Obligations.PipelineRequiresInputs : Prop :=
  ∀ s : State, Ready s →
    (∀ i : Instr,
      (i = .expand ∧ ¬ (inv s = true ∧ skv s = true)) ∨
      (i = .mixpass ∧ ¬ (spv s = true ∧ akv s = true)) ∨
      (i = .finalize ∧ ¬ spv s = true) ∨
      (i = .hash ∧ ¬ (inv s = true ∧ skv s = true ∧ akv s = true)) →
      ∃ t, exec i s = .next t ∧
        t = { s with fault := some .cfgInvalid, errInfo := t.errInfo } ∧
        t.errInfo.extractLsb' 16 8 = (status s).extractLsb' 8 8 ∧
        t.errInfo.extractLsb' 0 8 = (encodeFields i).opc) ∧
    (∀ i : Instr,
      (i = .expand ∧ inv s = true ∧ skv s = true) ∨
      (i = .mixpass ∧ spv s = true ∧ akv s = true) ∨
      (i = .finalize ∧ spv s = true) ∨
      (i = .hash ∧ inv s = true ∧ skv s = true ∧ akv s = true) →
      exec i s = .next { s with inflight := some i, done := false })

/-- 60_exceptions.md R135, R136: a zero divisor, a quotient that does not fit, and that nothing else
raises the two codes. -/
def Obligations.DivisionFaults : Prop :=
  ∀ s : State,
    (Ready s → x2 s = 0 →
      exec .div128 s =
        .next { s with fault := some .divZero, errInfo := commandInfo (encode .div128) s } ∧
      exec .udiv s =
        .next { s with fault := some .divZero, errInfo := commandInfo (encode .udiv) s }) ∧
    (Ready s → x2 s = 0 → x3 s = 0 →
      exec .divw s =
        .next { s with fault := some .divZero, errInfo := commandInfo (encode .divw) s }) ∧
    (Ready s → x2 s ≠ 0 → x2 s ≤ x0 s →
      exec .div128 s =
        .next { s with fault := some .divOverflow, errInfo := commandInfo (encode .div128) s }) ∧
    (∀ (i : Instr) (t : State), s.fault = none → exec i s = .next t → t.fault = some .divZero →
      (i = .div128 ∧ x2 s = 0) ∨ (i = .udiv ∧ x2 s = 0) ∨ (i = .divw ∧ x2 s = 0 ∧ x3 s = 0)) ∧
    (∀ (i : Instr) (t : State), s.fault = none → exec i s = .next t →
      t.fault = some .divOverflow → i = .div128 ∧ x2 s ≠ 0 ∧ x2 s ≤ x0 s)

/-- 60_exceptions.md R140, R143: only a reset changes a recorded fault, and an access or command that
would raise a later one has no effect. -/
def Obligations.FirstFaultWins : Prop :=
  ∀ (s : State) (f : FaultCode), s.fault = some f →
    (∀ (e : Event) (t : State), e.isReset = false → runEvent e s = .next t →
      t.fault = some f ∧ t.errInfo = s.errInfo) ∧
    (∀ w : Word, csrWrite cmdIndex w s = .next s) ∧
    (∀ (idx : BitVec 7) (v : Word), busy s = true →
      (readableWhileBusy (csrAt idx) = false → csrRead idx s = deliver 0 s) ∧
      (csrAt idx ≠ .ctrl → csrWrite idx v s = .next s)) ∧
    (∀ (k : BitVec 32) (v : Word), busy s = true ∨ s.memWords ≤ k.toNat →
      spmRead k s = deliver 0 s ∧ spmWrite k v s = s)

/-- 60_exceptions.md R141: a faulted block drops every command, serves every other access, and still
completes the command in flight. -/
def Obligations.FaultedBlockDropsCommands : Prop :=
  ∀ s : State, faulted s = true →
    (∀ w : Word, csrWrite cmdIndex w s = .next s) ∧
    (∀ idx, busy s = false ∨ readableWhileBusy (csrAt idx) = true →
      csrRead idx s = deliver (csrValue (csrAt idx) s) s) ∧
    (∀ idx v, csrAt idx = .ctrl → csrWrite idx v s = .next (writeCtrl v s)) ∧
    (busy s = false → ∀ idx v, csrAt idx ≠ .cmd → csrAt idx ≠ .ctrl →
      csrWrite idx v s = .next (storeCsr (csrAt idx) v s)) ∧
    (busy s = false → ∀ (k : BitVec 32) (v : Word), k.toNat < s.memWords →
      (indexIn s.spW k.toNat = true → spmRead k s = deliver (scratchWord s k.toNat) s) ∧
      spmWrite k v s = writeScratchWord k.toNat v s) ∧
    (∀ i, s.inflight = some i → commandCheck i s = none →
      ∃ t, unitTurn s = .next t ∧ t.inflight = none ∧ t.done = true ∧ t.fault = s.fault)

/-- 60_exceptions.md R132, 10_state.md R24: the fault codes, and the fields of ERRINFO for a command
fault, a CSR fault and a scratch fault. -/
def Obligations.FaultRecordFields : Prop :=
  (∀ s : State, s.fault = none → fcode s = 0) ∧
  (∀ (s : State) (f : FaultCode), s.fault = some f → fcode s = f.number) ∧
  FaultCode.illegalCmd.number = 1 ∧ FaultCode.cfgInvalid.number = 2 ∧
  FaultCode.divZero.number = 3 ∧ FaultCode.divOverflow.number = 4 ∧
  FaultCode.busyAccess.number = 5 ∧ FaultCode.spmRange.number = 6 ∧
  (∀ (w : Word) (s : State),
    (commandInfo w s).extractLsb' 0 8 = w.extractLsb' 0 8 ∧
    (commandInfo w s).extractLsb' 8 4 = w.extractLsb' 8 4 ∧
    (commandInfo w s).extractLsb' 12 4 = 0 ∧
    (commandInfo w s).extractLsb' 16 8 = (status s).extractLsb' 8 8 ∧
    (commandInfo w s).extractLsb' 24 40 = 0) ∧
  (∀ (write : Bool) (idx : BitVec 7),
    (csrInfo write idx).extractLsb' 0 12 = 0 ∧
    (csrInfo write idx).getLsbD 12 = true ∧ (csrInfo write idx).getLsbD 13 = false ∧
    (csrInfo write idx).getLsbD 14 = write ∧ (csrInfo write idx).getLsbD 15 = false ∧
    ((csrInfo write idx).extractLsb' 16 8).toNat = idx.toNat ∧
    (csrInfo write idx).extractLsb' 24 40 = 0) ∧
  (∀ (write : Bool) (k : BitVec 32),
    (spmInfo write k).extractLsb' 0 12 = 0 ∧
    (spmInfo write k).getLsbD 12 = true ∧ (spmInfo write k).getLsbD 13 = true ∧
    (spmInfo write k).getLsbD 14 = write ∧ (spmInfo write k).extractLsb' 15 17 = 0 ∧
    (spmInfo write k).extractLsb' 32 32 = k)

/-! ## The wide-arithmetic commands -/

/-- 45_control.md R125: NOP completes with no effect. -/
def Obligations.NopCompletes : Prop :=
  ∀ s : State, s.inflight = some .nop →
    exec .nop s = .next { s with inflight := none, done := true }

/-- 40_wide_arith.md R60: the rotates, for every amount. -/
def Obligations.RotateAmountModulo64 : Prop :=
  ∀ (x : Word) (n : Nat),
    rotl64 x n = rotl64 x (n % 64) ∧ rotr64 x n = rotr64 x (n % 64) ∧
    (n % 64 = 0 → rotl64 x n = x ∧ rotr64 x n = x) ∧
    (n % 64 ≠ 0 → rotl64 x n = (x <<< (n % 64)) ||| (x >>> (64 - n % 64)) ∧
      rotr64 x n = (x >>> (n % 64)) ||| (x <<< (64 - n % 64)) ∧
      rotl64 x n = rotr64 x (64 - n % 64)) ∧
    (∀ b < 64, (rotl64 x n).getLsbD ((b + n) % 64) = x.getLsbD b ∧
      (rotr64 x n).getLsbD b = x.getLsbD ((b + n) % 64))

/-- 40_wide_arith.md R66, R67: ROTL and ROTR complete. -/
def Obligations.RotatesComplete : Prop :=
  ∀ s : State,
    (s.inflight = some .rotl → exec .rotl s =
      .next { s with
        y := #v[(x0 s).rotateLeft (x1 s).toNat, 0, 0, 0], inflight := none, done := true }) ∧
    (s.inflight = some .rotr → exec .rotr s =
      .next { s with
        y := #v[(x0 s).rotateRight (x1 s).toNat, 0, 0, 0], inflight := none, done := true })

/-- 40_wide_arith.md R61, R68: DIV128 completes with the quotient and the remainder. -/
def Obligations.Div128Completes : Prop :=
  ∀ s : State, s.inflight = some .div128 → x2 s ≠ 0 → x0 s < x2 s →
    ∃ q rem : Word,
      exec .div128 s = .next { s with y := #v[q, 0, rem, 0], inflight := none, done := true } ∧
      (x0 s).toNat * 2 ^ 64 + (x1 s).toNat = q.toNat * (x2 s).toNat + rem.toNat ∧
      rem.toNat < (x2 s).toNat

/-- 40_wide_arith.md R62, R69 (90 C3): UDIV completes with the 128-bit quotient and the remainder. -/
def Obligations.UdivCompletes : Prop :=
  ∀ s : State, s.inflight = some .udiv → x2 s ≠ 0 →
    ∃ qlo qhi rem : Word,
      exec .udiv s = .next { s with y := #v[qlo, qhi, rem, 0], inflight := none, done := true } ∧
      (x0 s).toNat * 2 ^ 64 + (x1 s).toNat =
        (qhi.toNat * 2 ^ 64 + qlo.toNat) * (x2 s).toNat + rem.toNat ∧
      rem.toNat < (x2 s).toNat

/-- 40_wide_arith.md R63: `integer_sqrt` is the floor square root. -/
def Obligations.IntegerSqrtIsFloor : Prop :=
  ∀ n : Word, (integerSqrt n).toNat * (integerSqrt n).toNat ≤ n.toNat ∧
    n.toNat < ((integerSqrt n).toNat + 1) * ((integerSqrt n).toNat + 1)

/-- 40_wide_arith.md R70: ISQRT completes with the root and what is left. -/
def Obligations.IsqrtCompletes : Prop :=
  ∀ s : State, s.inflight = some .isqrt →
    ∃ root rest : Word,
      exec .isqrt s = .next { s with y := #v[root, 0, rest, 0], inflight := none, done := true } ∧
      root.toNat * root.toNat + rest.toNat = (x0 s).toNat ∧
      (x0 s).toNat < (root.toNat + 1) * (root.toNat + 1) ∧ root.toNat < 2 ^ 32

/-- 40_wide_arith.md R64, R71, R72: MULHI and MULHI128 complete with the product modulo `2^128`. -/
def Obligations.MultipliesComplete : Prop :=
  ∀ s : State,
    (s.inflight = some .mulhi → ∃ hi lo : Word,
      exec .mulhi s = .next { s with y := #v[hi, lo, 0, 0], inflight := none, done := true } ∧
      hi.toNat * 2 ^ 64 + lo.toNat =
        (((x0 s).toNat * 2 ^ 64 + (x1 s).toNat) * (x2 s).toNat) % 2 ^ 128) ∧
    (s.inflight = some .mulhi128 → ∃ hi lo : Word,
      exec .mulhi128 s = .next { s with y := #v[hi, lo, 0, 0], inflight := none, done := true } ∧
      hi.toNat * 2 ^ 64 + lo.toNat =
        (((x0 s).toNat * 2 ^ 64 + (x1 s).toNat) * ((x2 s).toNat * 2 ^ 64 + (x3 s).toNat))
          % 2 ^ 128)

/-- 40_wide_arith.md R65, R73: DIVW completes with the 128-bit quotient and remainder. -/
def Obligations.DivwCompletes : Prop :=
  ∀ s : State, s.inflight = some .divw → ¬ (x2 s = 0 ∧ x3 s = 0) →
    ∃ q0 q1 r0 r1 : Word,
      exec .divw s = .next { s with y := #v[q0, q1, r0, r1], inflight := none, done := true } ∧
      (x0 s).toNat * 2 ^ 64 + (x1 s).toNat =
        (q1.toNat * 2 ^ 64 + q0.toNat) * ((x2 s).toNat * 2 ^ 64 + (x3 s).toNat) +
          (r1.toNat * 2 ^ 64 + r0.toNat) ∧
      r1.toNat * 2 ^ 64 + r0.toNat < (x2 s).toNat * 2 ^ 64 + (x3 s).toNat

/-! ## The mixing commands -/

/-- 41_mix_ops.md R83 to R90: MIXOP.2 to MIXOP.9 complete. -/
def Obligations.PlainMixopsComplete : Prop :=
  ∀ s : State,
    (s.inflight = some .mixop2 → exec .mixop2 s =
      .next { s with y := #v[x0 s ^^^ x1 s ^^^ x2 s, 2, 0, 0], inflight := none, done := true }) ∧
    (s.inflight = some .mixop3 → exec .mixop3 s =
      .next { s with y := #v[(x0 s + x1 s) * x2 s, 3, 0, 0], inflight := none, done := true }) ∧
    (s.inflight = some .mixop4 → exec .mixop4 s =
      .next { s with y := #v[(x1 s - x2 s) * x0 s, 4, 0, 0], inflight := none, done := true }) ∧
    (s.inflight = some .mixop5 → exec .mixop5 s =
      .next { s with y := #v[(x2 s - x0 s) + x1 s, 5, 0, 0], inflight := none, done := true }) ∧
    (s.inflight = some .mixop6 → exec .mixop6 s =
      .next { s with y := #v[(x0 s - x1 s) + x2 s, 6, 0, 0], inflight := none, done := true }) ∧
    (s.inflight = some .mixop7 → exec .mixop7 s =
      .next { s with y := #v[x1 s * x2 s + x0 s, 7, 0, 0], inflight := none, done := true }) ∧
    (s.inflight = some .mixop8 → exec .mixop8 s =
      .next { s with y := #v[x2 s * x0 s + x1 s, 8, 0, 0], inflight := none, done := true }) ∧
    (s.inflight = some .mixop9 → exec .mixop9 s =
      .next { s with y := #v[(x0 s * x1 s) * x2 s, 9, 0, 0], inflight := none, done := true })

/-- 41_mix_ops.md R81, R82 (supplied by the spec from general knowledge, log 5): MIXOP.0 and MIXOP.1
complete. -/
def Obligations.RotateXorMixopsComplete : Prop :=
  ∀ s : State,
    (s.inflight = some .mixop0 → exec .mixop0 s =
      .next { s with
        y := #v[(x2 s).rotateLeft (x5 s * x6 s).toNat ^^^ x1 s, 0, 0, 0]
        inflight := none
        done := true }) ∧
    (s.inflight = some .mixop1 → exec .mixop1 s =
      .next { s with
        y := #v[(x2 s).rotateRight (x5 s * x6 s).toNat ^^^ x0 s, 1, 0, 0]
        inflight := none
        done := true })

/-- 41_mix_ops.md R91 to R94 (supplied by the spec from general knowledge, log 5): MIXOP.10 to
MIXOP.13 complete, by their values as natural numbers. -/
def Obligations.DivisionMixopsComplete : Prop :=
  ∀ s : State,
    (s.inflight = some .mixop10 → ∃ v : Word,
      exec .mixop10 s = .next { s with y := #v[v, 10, 0, 0], inflight := none, done := true } ∧
      v.toNat = ((x0 s).toNat * 2 ^ 64 + (x1 s).toNat) % (x2 s ||| 1).toNat) ∧
    (s.inflight = some .mixop11 → ∃ v : Word,
      exec .mixop11 s = .next { s with y := #v[v, 11, 0, 0], inflight := none, done := true } ∧
      v = if (x1 s).toNat * 2 ^ 64 + (x2 s).toNat <
            ((x3 s).rotateLeft (x4 s).toNat).toNat * 2 ^ 64 + (x0 s ||| 2).toNat then x2 s
          else BitVec.ofNat 64 (((x1 s).toNat * 2 ^ 64 + (x2 s).toNat) %
            (((x3 s).rotateLeft (x4 s).toNat).toNat * 2 ^ 64 + (x0 s ||| 2).toNat))) ∧
    (s.inflight = some .mixop12 → ∃ v : Word,
      exec .mixop12 s = .next { s with y := #v[v, 12, 0, 0], inflight := none, done := true } ∧
      v = BitVec.ofNat 64 (((x2 s).toNat * 2 ^ 64 + (x0 s).toNat) / (x1 s ||| 4).toNat)) ∧
    (s.inflight = some .mixop13 → ∃ v : Word,
      exec .mixop13 s = .next { s with y := #v[v, 13, 0, 0], inflight := none, done := true } ∧
      v = if (x0 s).toNat * 2 ^ 64 + (x2 s ||| 8).toNat <
            ((x3 s).rotateLeft (x4 s).toNat).toNat * 2 ^ 64 + (x1 s).toNat then
            BitVec.ofNat 64 ((((x3 s).rotateLeft (x4 s).toNat).toNat * 2 ^ 64 + (x1 s).toNat) /
              ((x0 s).toNat * 2 ^ 64 + (x2 s ||| 8).toNat))
          else x0 s ^^^ x1 s)

/-- 41_mix_ops.md R95, R96: MIXOP.14 and MIXOP.15 complete with the high half of the product. -/
def Obligations.MultiplyMixopsComplete : Prop :=
  ∀ s : State,
    (s.inflight = some .mixop14 → exec .mixop14 s =
      .next { s with
        y := #v[BitVec.ofNat 64
          (((x1 s).toNat * 2 ^ 64 + (x0 s).toNat) * (x2 s).toNat / 2 ^ 64), 14, 0, 0]
        inflight := none
        done := true }) ∧
    (s.inflight = some .mixop15 → exec .mixop15 s =
      .next { s with
        y := #v[BitVec.ofNat 64
          (((x0 s).toNat * 2 ^ 64 + (x2 s).toNat) *
            (((x3 s).rotateRight (x4 s).toNat).toNat * 2 ^ 64 + (x1 s).toNat) / 2 ^ 64), 15, 0, 0]
        inflight := none
        done := true })

/-- 41_mix_ops.md R80, R97, R98: MIXAUTO completes with what the selected MIXOP.k gives and the next
`result`; the mixing table of Stage 3 is the same function of the seven operands. -/
def Obligations.MixautoCompletes : Prop :=
  ∀ s : State, s.inflight = some .mixauto →
    ∃ (v : Word) (k : BitVec 4), k = ((x3 s).rotateLeft (x2 s).toNat).extractLsb' 0 4 ∧
      v = mixTable k ⟨x0 s, x1 s, x2 s, x3 s, x4 s, x5 s, x6 s⟩ ∧
      exec .mixauto s = .next { s with
        y := #v[v, k.zeroExtend 64, (x3 s ^^^ v).rotateLeft 1, 0]
        inflight := none
        done := true } ∧
      exec (decodeMixop k) { s with inflight := some (decodeMixop k) } = .next { s with
        y := #v[v, k.zeroExtend 64, 0, 0]
        inflight := none
        done := true }

/-- 41_mix_ops.md R99: no mixing command faults, in its submission or its completion, and no mixing
divisor is zero. -/
def Obligations.MixingNeverFaults : Prop :=
  (∀ (k : BitVec 4) (s : State), Ready s →
    exec (decodeMixop k) s = .next { s with inflight := some (decodeMixop k), done := false } ∧
    exec .mixauto s = .next { s with inflight := some .mixauto, done := false }) ∧
  (∀ (k : BitVec 4) (i : Instr) (s : State), i = decodeMixop k ∨ i = .mixauto →
    s.inflight = some i → ∃ t, exec i s = .next t ∧ t.fault = s.fault) ∧
  (∀ a b c h : Word, (c ||| 1).toNat ≥ 1 ∧ (combine h (a ||| 2)).toNat ≥ 2 ∧
    (b ||| 4).toNat ≥ 4 ∧ (combine a (c ||| 8)).toNat ≥ 8)

/-! ## The pipeline -/

/-- 42_keystream.md R104, R105 (V-EXP-1): every segment is the keystream of the next chaining digest
under the last twelve bytes of the segment before it. -/
def Obligations.SegmentsAreChained : Prop :=
  ∀ (hash32 : List Byte → Vector Byte 32)
    (chaCha8 : List Byte → List Byte → (n : Nat) → Vector Byte n) (m : Nat)
    (ib km nonce : List Byte), 12 ≤ Config.segBytes m →
    ∀ i < 4,
      slice (stage1Bytes hash32 chaCha8 m ib km nonce) (i * Config.segBytes m)
          (Config.segBytes m) =
        (chaCha8 (digestChain hash32 ib km (i + 1))
          (if i = 0 then nonce
            else slice (stage1Bytes hash32 chaCha8 m ib km nonce) (i * Config.segBytes m - 12) 12)
          (Config.segBytes m)).toList

/-- 42_keystream.md R107: Stage 1 produces exactly the scratch memory's bytes, and every nonce
exists. -/
def Obligations.StageOneFillsTheScratch : Prop :=
  ∀ (hash32 : List Byte → Vector Byte 32)
    (chaCha8 : List Byte → List Byte → (n : Nat) → Vector Byte n) (m : Nat)
    (ib km nonce : List Byte),
    (stage1Bytes hash32 chaCha8 m ib km nonce).length = 4 * Config.segBytes m ∧
    4 * Config.segBytes m = Config.sizeBytes m ∧
    wordsToBytes (stage1 hash32 chaCha8 m ib km nonce) = stage1Bytes hash32 chaCha8 m ib km nonce ∧
    (Config.validSize m = true → Config.nonceLen ≤ Config.segBytes m)

/-- 42_keystream.md R100: EXPAND completes; every scratch byte is Stage 1's and every word counts as
written. -/
def Obligations.ExpandCompletes : Prop :=
  ∀ s : State, s.inflight = some .expand → inv s = true → skv s = true → 0 < s.memWords →
    ∃ t, exec .expand s = .next t ∧
      t = { s with
        scratch := t.scratch, spW := List.range s.memWords, inflight := none, done := true } ∧
      scratchBytes t 0 (Config.sizeBytes s.memWords) =
        stage1Bytes Config.hash32 Config.chaCha8 s.memWords (inputBlock s) (keyMaterial s)
          (nonce0 s) ∧
      spv t = true

/-- 43_mixer.md R114 to R118: one inner step, read by read and word by word. -/
def Obligations.InnerStepWritesTwoWords : Prop :=
  ∀ (m i j : Nat) (st : MixState), m % 2 = 0 → st.sp.length = m → j < m / 2 → st.r < m →
    ∃ v result : Word,
      (∃ o : MixOperands,
        o.a = wordAt st.sp (st.result.toNat % (m / 2)) ∧
        o.b = wordAt st.sp (m / 2 + (~~~ (st.result.rotateRight st.r)).toNat % (m / 2)) ∧
        o.c = wordAt st.sp st.r ∧ o.result = st.result ∧
        o.r = BitVec.ofNat 64 (if st.r < m - 1 then st.r + 1 else 0) ∧
        o.i = BitVec.ofNat 64 i ∧ o.j = BitVec.ofNat 64 j ∧
        v = mixTable ((st.result.rotateLeft o.c.toNat).extractLsb' 0 4) o) ∧
      result = (st.result ^^^ v).rotateLeft 1 ∧
      (innerStep m i st j).result = result ∧
      (innerStep m i st j).r = (if st.r < m - 1 then st.r + 1 else 0) ∧
      (innerStep m i st j).sp.length = m ∧
      (∀ k < m, wordAt (innerStep m i st j).sp k =
        if k = m / 2 - 1 - j then wordAt st.sp k ^^^ result
        else if k = m / 2 + j then
          wordAt st.sp k ^^^ (wordAt st.sp (m / 2 - 1 - j) ^^^ result).rotateRight result.toNat
        else wordAt st.sp k)

/-- 43_mixer.md R121: every Stage 3 access is in range. Each read of `mixStart`, `roundStart` and
`stepOperands` and each write of `writeBack` is of a word that exists, at the index R112 to R118 give,
in the half they name; the rolling index and the number of words stay as they must. -/
def Obligations.StageThreeStaysInRange : Prop :=
  ∀ m : Nat, Config.validSize m = true →
    (∀ (w : Word) (r : Nat), w.toNat % (m / 2) < m / 2 ∧ (~~~ rotr64 w r).toNat % (m / 2) < m / 2) ∧
    (∀ j < m / 2, m / 2 - 1 - j < m / 2 ∧ m / 2 + j < m) ∧
    ∀ sp : List Word, sp.length = m →
      (∃ p q : Word, sp[m - 1]? = some p ∧ sp[m / 2 - 1]? = some q ∧
        mixStart m sp = { sp := sp, r := 0, addrA := p, addrB := q >>> 32 }) ∧
      (∀ (key : List Byte) (st : RoundState), st.sp = sp →
        ∃ p q : Word, sp[st.addrA.toNat % (m / 2)]? = some p ∧
          sp[m / 2 + st.addrB.toNat % (m / 2)]? = some q ∧
          le64 (~~~ roundStart m key st ^^^ (p ^^^ q)) =
            (aesRound (le64 q ++ le64 p) key).take 8) ∧
      (∀ (st : MixState) (i j : Nat), st.sp = sp → st.r < m →
        sp[st.result.toNat % (m / 2)]? = some (stepOperands m i j st).a ∧
        sp[m / 2 + (~~~ rotr64 st.result st.r).toNat % (m / 2)]? =
          some (stepOperands m i j st).b ∧
        sp[st.r]? = some (stepOperands m i j st).c ∧
        (innerStep m i st j).r < m ∧ (innerStep m i st j).sp.length = m) ∧
      (∀ j < m / 2, ∀ result : Word, ∃ p q : Word,
        sp[m / 2 - 1 - j]? = some p ∧ sp[m / 2 + j]? = some q ∧
        writeBack m j result sp = (sp.set (m / 2 - 1 - j) (p ^^^ result)).set (m / 2 + j)
          (q ^^^ rotr64 (p ^^^ result) result.toNat)) ∧
      (∀ (key : List Byte) (st : RoundState) (i : Nat), st.sp = sp → st.r < m →
        (outerRound m key st i).r < m ∧ (outerRound m key st i).sp.length = m) ∧
      (∀ key : List Byte, (stage3 m sp key).length = m)

/-- 43_mixer.md R110, R112, R113, R119, R120: MIXPASS completes; the scratch words are Stage 3's, which
is the relation those rules give. -/
def Obligations.MixpassCompletes : Prop :=
  ∀ s : State, s.inflight = some .mixpass → spv s = true → akv s = true →
    ∃ t, exec .mixpass s = .next t ∧
      t = { s with scratch := t.scratch, inflight := none, done := true } ∧
      scratchWords t = stage3 s.memWords (scratchWords s) (aesKey s) ∧
      IsStageThree s.memWords (aesKey s) (scratchWords s) (scratchWords t) ∧ spv t = true

/-- 44_finalizer.md R122: FINALIZE completes; DG holds the digest of the scratch bytes. -/
def Obligations.FinalizeCompletes : Prop :=
  ∀ s : State, s.inflight = some .finalize → spv s = true →
    ∃ t, exec .finalize s = .next t ∧
      t = { s with dg := t.dg, dgv := true, inflight := none, done := true } ∧
      wordsToBytes t.dg.toList =
        (Config.hash32 (scratchBytes s 0 (Config.sizeBytes s.memWords))).toList

/-- 44_finalizer.md R123, 43_mixer.md R112, R113, R119, R120: HASH completes; the scratch words are
those of Stage 3, the relation those rules give, on Stage 1's output, and DG holds their digest. -/
def Obligations.HashCompletes : Prop :=
  ∀ s : State, s.inflight = some .hash → inv s = true → skv s = true → akv s = true →
    ∃ t, exec .hash s = .next t ∧
      t = { s with
        scratch := t.scratch, spW := List.range s.memWords, dg := t.dg, dgv := true
        inflight := none, done := true } ∧
      scratchWords t = stage3 s.memWords
        (stage1 Config.hash32 Config.chaCha8 s.memWords (inputBlock s) (keyMaterial s) (nonce0 s))
        (aesKey s) ∧
      IsStageThree s.memWords (aesKey s)
        (bytesToWords s.memWords (stage1Bytes Config.hash32 Config.chaCha8 s.memWords (inputBlock s)
          (keyMaterial s) (nonce0 s)))
        (scratchWords t) ∧
      wordsToBytes t.dg.toList = (Config.hash32 (wordsToBytes (scratchWords t))).toList

/-- 44_finalizer.md R123: HASH ends where EXPAND, MIXPASS and FINALIZE one after another end. -/
def Obligations.HashIsExpandMixpassFinalize : Prop :=
  ∀ (s : State) (rest : List Event), Config.validSize s.memWords = true → Ready s →
    inv s = true → skv s = true → akv s = true →
    ∃ t, Host.Core.run core 2
        { s with agenda := .host (.csrWrite cmdIndex 0x023) :: .unit :: rest } = .next t ∧
      Host.Core.run core 6
        { s with agenda := [.host (.csrWrite cmdIndex 0x020), .unit,
          .host (.csrWrite cmdIndex 0x021), .unit,
          .host (.csrWrite cmdIndex 0x022), .unit] ++ rest } = .next t

/-- 44_finalizer.md R124: the digest is a function of the inputs alone, whatever else the two states
hold. -/
def Obligations.DigestDependsOnInputsOnly : Prop :=
  ∀ (s s' t t' : State) (rest rest' : List Event),
    s.memWords = s'.memWords → s.inp = s'.inp → s.sk = s'.sk → s.nonceLo = s'.nonceLo →
    s.nonceHi = s'.nonceHi → s.ak = s'.ak → Ready s → Ready s' →
    inv s = true → skv s = true → akv s = true → inv s' = true → skv s' = true → akv s' = true →
    s.agenda = .host (.csrWrite cmdIndex 0x023) :: .unit :: rest →
    s'.agenda = .host (.csrWrite cmdIndex 0x023) :: .unit :: rest' →
    Host.Core.run core 2 s = .next t → Host.Core.run core 2 s' = .next t' →
    t.dg = t'.dg ∧ t.scratch = t'.scratch ∧ t.dgv = true ∧ t'.dgv = true

/-- 70_reset_and_hazards.md R156, R158: a command's results do not depend on its latency: host accesses
that come between acceptance and completion, short of a reset, change none of them. -/
def Obligations.LatencyDoesNotMatter : Prop :=
  ∀ (s t : State) (i : Instr) (es rest : List Event), s.inflight = some i →
    s.agenda = es ++ .unit :: rest → (∀ e ∈ es, e.isPlainHost = true) → exec i s = .next t →
    ∃ u, Host.Core.run core (es.length + 1) s = .next u ∧ u.inflight = none ∧ u.done = true ∧
      u.x = t.x ∧ u.y = t.y ∧ u.dg = t.dg ∧ u.dgv = t.dgv ∧ u.scratch = t.scratch ∧
      u.spW = t.spW ∧ u.inp = t.inp ∧ u.sk = t.sk ∧ u.ak = t.ak ∧ u.nonceLo = t.nonceLo ∧
      u.nonceHi = t.nonceHi ∧ u.agenda = rest

/-- 00_scope.md R13 (general knowledge in the spec, log 4): the field, the S-box bit by bit, the round
byte by byte, and the check values, the FIPS-197 example of V-AES-1 among them. -/
def Obligations.AesRoundIsStandard : Prop :=
  (∀ a : Byte, gfMul a 1 = a) ∧
  (∀ a b c : Byte, gfMul a (b ^^^ c) = gfMul a b ^^^ gfMul a c) ∧
  (∀ a b : Byte, b.getLsbD 7 = false →
    gfMul a (b <<< 1) = gfMul (if a.getLsbD 7 then (a <<< 1) ^^^ 0x1B else a <<< 1) b) ∧
  gfInv 0 = 0 ∧ (∀ b : Byte, b ≠ 0 → gfMul b (gfInv b) = 1) ∧
  (∀ b : Byte, ∀ i < 8, (sbox b).getLsbD i =
    ((gfInv b).getLsbD i ^^ (gfInv b).getLsbD ((i + 4) % 8) ^^ (gfInv b).getLsbD ((i + 5) % 8) ^^
      (gfInv b).getLsbD ((i + 6) % 8) ^^ (gfInv b).getLsbD ((i + 7) % 8) ^^
      (0x63 : Byte).getLsbD i)) ∧
  (∀ (blk key : List Byte) (t : Nat → Nat → Byte), blk.length = 16 → key.length = 16 →
    (∀ c r, t c r = sbox (byteAt blk (r + 4 * ((c + r) % 4)))) →
    (aesRound blk key).length = 16 ∧ ∀ c < 4,
      byteAt (aesRound blk key) (4 * c) =
        gfMul 2 (t c 0) ^^^ gfMul 3 (t c 1) ^^^ t c 2 ^^^ t c 3 ^^^ byteAt key (4 * c) ∧
      byteAt (aesRound blk key) (4 * c + 1) =
        t c 0 ^^^ gfMul 2 (t c 1) ^^^ gfMul 3 (t c 2) ^^^ t c 3 ^^^ byteAt key (4 * c + 1) ∧
      byteAt (aesRound blk key) (4 * c + 2) =
        t c 0 ^^^ t c 1 ^^^ gfMul 2 (t c 2) ^^^ gfMul 3 (t c 3) ^^^ byteAt key (4 * c + 2) ∧
      byteAt (aesRound blk key) (4 * c + 3) =
        gfMul 3 (t c 0) ^^^ t c 1 ^^^ t c 2 ^^^ gfMul 2 (t c 3) ^^^ byteAt key (4 * c + 3)) ∧
  sbox 0x00 = 0x63 ∧ sbox 0x01 = 0x7C ∧ sbox 0x53 = 0xED ∧ sbox 0xFF = 0x16 ∧
  aesRound (List.replicate 16 0) (List.replicate 16 0) = List.replicate 16 0x63 ∧
  aesRound
      [0x19, 0x3D, 0xE3, 0xBE, 0xA0, 0xF4, 0xE2, 0x2B,
        0x9A, 0xC6, 0x8D, 0x2A, 0xE9, 0xF8, 0x48, 0x08]
      [0xA0, 0xFA, 0xFE, 0x17, 0x88, 0x54, 0x2C, 0xB1,
        0x23, 0xA3, 0x39, 0x39, 0x2A, 0x6C, 0x76, 0x05] =
    [0xA4, 0x9C, 0x7F, 0xF2, 0x68, 0x9F, 0x35, 0x2B,
      0x6B, 0x5B, 0xEA, 0x43, 0x02, 0x6A, 0x50, 0x49]

/-! ## Registers, memory and host accesses -/

/-- 20_memory.md R37: the word view and the byte view denote the same storage. -/
def Obligations.ByteViewIsWordView : Prop :=
  (∀ (s : State) (n : Nat),
    scratchByte s n = (scratchWord s (n / 8)).extractLsb' (8 * (n % 8)) 8) ∧
  (∀ (s : State) (a n : Nat), a + n ≤ Config.sizeBytes s.memWords →
    scratchBytes s a n = slice (wordsToBytes (scratchWords s)) a n)

/-- 10_state.md R19, R22, 20_memory.md R41: the CSR map, and what a read of every register returns:
on an idle block always, on a busy one for the four registers R41 allows. A read records nothing. -/
def Obligations.CsrMapAndReads : Prop :=
  (∀ r : CsrReg, csrAt (csrIndex r) = r) ∧
  csrIndex .caps = 0x00 ∧ csrIndex .status = 0x01 ∧ csrIndex .cmd = 0x02 ∧ csrIndex .ctrl = 0x03 ∧
  csrIndex .errinfo = 0x04 ∧ csrIndex .nonceLo = 0x05 ∧ csrIndex .nonceHi = 0x06 ∧
  (∀ n : Fin 7, (csrIndex (.x n)).toNat = 0x08 + n) ∧
  (∀ n : Fin 4, (csrIndex (.y n)).toNat = 0x10 + n) ∧
  (∀ n : Fin 14, (csrIndex (.inp n)).toNat = 0x20 + n) ∧
  (∀ n : Fin 16, (csrIndex (.sk n)).toNat = 0x30 + n) ∧
  (∀ n : Fin 2, (csrIndex (.ak n)).toNat = 0x40 + n) ∧
  (∀ n : Fin 4, (csrIndex (.dg n)).toNat = 0x48 + n) ∧
  (∀ idx : BitVec 7, csrAt idx = .reserved ↔
    idx.toNat = 0x07 ∨ idx.toNat = 0x0F ∨ (0x14 ≤ idx.toNat ∧ idx.toNat ≤ 0x1F) ∨
    (0x2E ≤ idx.toNat ∧ idx.toNat ≤ 0x2F) ∨ (0x42 ≤ idx.toNat ∧ idx.toNat ≤ 0x47) ∨
    0x4C ≤ idx.toNat) ∧
  (∀ s : State,
    csrRead (csrIndex .caps) s = { s with returned := caps s :: s.returned } ∧
    csrRead (csrIndex .status) s = { s with returned := status s :: s.returned } ∧
    csrRead (csrIndex .errinfo) s = { s with returned := s.errInfo :: s.returned } ∧
    csrRead (csrIndex .ctrl) s = { s with returned := (if s.ie then 2 else 0) :: s.returned }) ∧
  (∀ s : State, busy s = false →
    csrRead (csrIndex .cmd) s = { s with returned := 0 :: s.returned } ∧
    csrRead (csrIndex .nonceLo) s = { s with returned := s.nonceLo :: s.returned } ∧
    csrRead (csrIndex .nonceHi) s = { s with returned := (0#32 ++ s.nonceHi) :: s.returned } ∧
    (∀ n : Fin 7, csrRead (csrIndex (.x n)) s = { s with returned := s.x[n] :: s.returned }) ∧
    (∀ n : Fin 4, csrRead (csrIndex (.y n)) s = { s with returned := s.y[n] :: s.returned }) ∧
    (∀ n : Fin 14, csrRead (csrIndex (.inp n)) s =
      { s with returned := s.inp[n] :: s.returned }) ∧
    (∀ n : Fin 16, csrRead (csrIndex (.sk n)) s = { s with returned := s.sk[n] :: s.returned }) ∧
    (∀ n : Fin 2, csrRead (csrIndex (.ak n)) s = { s with returned := s.ak[n] :: s.returned }) ∧
    (∀ n : Fin 4, csrRead (csrIndex (.dg n)) s = { s with returned := s.dg[n] :: s.returned }) ∧
    (∀ idx, csrAt idx = .reserved → csrRead idx s = { s with returned := 0 :: s.returned }))

/-- 20_memory.md R41, R42; 10_state.md R26 to R28, R31: a written operand, nonce or data register
reads back, its written bit is set, and no other register changes (STATUS shows the valid bits). -/
def Obligations.RegisterWriteReadsBack : Prop :=
  ∀ (s : State) (r : CsrReg) (v : Word), s.inflight = none →
    ((∃ n, r = .x n) ∨ r = .nonceLo ∨ (∃ n, r = .inp n) ∨ (∃ n, r = .sk n) ∨ (∃ n, r = .ak n)) →
    ∃ t, csrWrite (csrIndex r) v s = .next t ∧
      csrRead (csrIndex r) t = deliver v t ∧
      (∀ r', r' ≠ r → r' ≠ .status → csrValue r' t = csrValue r' s) ∧
      (∀ n : Fin 14, t.inW[n] = (s.inW[n] || decide (r = .inp n))) ∧
      (∀ n : Fin 16, t.skW[n] = (s.skW[n] || decide (r = .sk n))) ∧
      (∀ n : Fin 2, t.akW[n] = (s.akW[n] || decide (r = .ak n))) ∧
      t = { s with
        x := t.x, nonceLo := t.nonceLo, inp := t.inp, sk := t.sk, ak := t.ak, inW := t.inW
        skW := t.skW, akW := t.akW }

/-- 10_state.md R25 to R28, 42_keystream.md R102: the nonce register pair, and the byte strings IB, KM
and AESKEY of the data registers, byte by byte, with the four sub-keys. -/
def Obligations.NonceAndDataBytes : Prop :=
  (∀ s : State, nonce0 s = le64 s.nonceLo ++ (le64 (csrValue .nonceHi s)).take 4) ∧
  (∀ s : State, (nonce0 s).length = 12) ∧
  (∀ (s : State) (v : Word), s.inflight = none →
    csrWrite (csrIndex .nonceLo) v s = .next { s with nonceLo := v } ∧
    csrWrite (csrIndex .nonceHi) v s = .next { s with nonceHi := v.extractLsb' 0 32 }) ∧
  (∀ s : State, (csrValue .nonceHi s).extractLsb' 32 32 = 0 ∧
    (csrValue .nonceHi s).extractLsb' 0 32 = s.nonceHi) ∧
  nonce0 State.reset = List.replicate 12 0 ∧
  (∀ s : State, (inputBlock s).length = 112 ∧ (keyMaterial s).length = 128 ∧
    (aesKey s).length = 16) ∧
  (∀ (s : State) (n : Nat) (h : n < 112),
    (inputBlock s)[n]? = some (s.inp[n / 8].extractLsb' (8 * (n % 8)) 8)) ∧
  (∀ (s : State) (n : Nat) (h : n < 128),
    (keyMaterial s)[n]? = some (s.sk[n / 8].extractLsb' (8 * (n % 8)) 8)) ∧
  (∀ (s : State) (n : Nat) (h : n < 16),
    (aesKey s)[n]? = some (s.ak[n / 8].extractLsb' (8 * (n % 8)) 8)) ∧
  (∀ s : State, ∀ i < 4, (subKey (keyMaterial s) i).length = 32 ∧
    ∀ n < 32, (subKey (keyMaterial s) i)[n]? = (keyMaterial s)[32 * i + n]?)

/-- 10_state.md R30: reserved indices and read-only registers. -/
def Obligations.ReadOnlyAndReservedIgnoreWrites : Prop :=
  (∀ (s : State) (idx : BitVec 7), busy s = false → csrAt idx = .reserved →
    csrRead idx s = deliver 0 s) ∧
  (∀ (s : State) (idx : BitVec 7) (v : Word), busy s = false →
    (csrAt idx = .reserved ∨ csrAt idx = .caps ∨ csrAt idx = .status ∨ csrAt idx = .errinfo ∨
      (∃ n, csrAt idx = .y n) ∨ (∃ n, csrAt idx = .dg n)) →
    csrWrite idx v s = .next s) ∧
  (∀ (s : State) (idx : BitVec 7) (v : Word), busy s = true →
    (csrAt idx = .reserved ∨ csrAt idx = .caps ∨ csrAt idx = .status ∨ csrAt idx = .errinfo ∨
      (∃ n, csrAt idx = .y n) ∨ (∃ n, csrAt idx = .dg n)) →
    csrWrite idx v s = .next (raise .busyAccess (csrInfo true idx) s) ∧
    (csrAt idx = .reserved →
      csrRead idx s = deliver 0 (raise .busyAccess (csrInfo false idx) s)))

/-- 10_state.md R23: a write to CTRL, busy or not, and what CTRL reads. -/
def Obligations.CtrlWriteEffects : Prop :=
  ∀ (s : State) (v : Word),
    (v.getLsbD 0 = true →
      csrWrite (csrIndex .ctrl) v s = .next (softReset s) ∧ (softReset s).ie = false) ∧
    (v.getLsbD 0 = false → csrWrite (csrIndex .ctrl) v s =
      .next { s with ie := v.getLsbD 1, done := if v.getLsbD 2 then false else s.done }) ∧
    (∀ b < 64, (csrValue .ctrl s).getLsbD b = (decide (b = 1) && s.ie))

/-- 10_state.md R21, R34: the fields of STATUS, the interrupt output it mirrors, and that reading it has
no side effect. -/
def Obligations.StatusFields : Prop :=
  ∀ s : State,
    (status s).getLsbD 0 = s.inflight.isSome ∧ (status s).getLsbD 1 = s.done ∧
    (status s).getLsbD 2 = s.fault.isSome ∧ (status s).getLsbD 3 = irq s ∧
    (irq s = true ↔ s.ie = true ∧ (s.done = true ∨ s.fault ≠ none)) ∧
    (status s).extractLsb' 4 4 = fcode s ∧ (status s).getLsbD 8 = inv s ∧
    (status s).getLsbD 9 = skv s ∧ (status s).getLsbD 10 = akv s ∧
    (status s).getLsbD 11 = spv s ∧ (status s).getLsbD 12 = s.dgv ∧
    (status s).extractLsb' 13 51 = 0 ∧
    (inv s = true ↔ ∀ n : Fin 14, s.inW[n] = true) ∧
    (skv s = true ↔ ∀ n : Fin 16, s.skW[n] = true) ∧
    (akv s = true ↔ ∀ n : Fin 2, s.akW[n] = true) ∧
    (0 < s.memWords → (spv s = true ↔ ∀ k < s.memWords, indexIn s.spW k = true)) ∧
    csrRead (csrIndex .status) s = deliver (status s) s

/-- 10_state.md R20: CAPS. -/
def Obligations.CapsIsConstant : Prop :=
  ∀ s : State, Config.validSize s.memWords = true →
    ((caps s).extractLsb' 0 32).toNat = s.memWords ∧ (caps s).extractLsb' 32 8 = 3 ∧
    (caps s).extractLsb' 40 8 = 0x02 ∧ (caps s).extractLsb' 48 16 = 0 ∧
    csrRead (csrIndex .caps) s = deliver (caps s) s ∧
    caps (softReset s) = caps s ∧ caps (hardReset s) = caps s ∧
    (∀ v, busy s = false → csrWrite (csrIndex .caps) v s = .next s)

/-- 60_exceptions.md R137, 70_reset_and_hazards.md R154: an access that is not allowed while BUSY = 1
records BUSY_ACCESS and has no other effect, and the command in flight is untouched. -/
def Obligations.BusyAccessFaults : Prop :=
  ∀ (a : Access) (s : State), busy s = true → allowedWhileBusy a = false →
    ∃ t, hostAccess a s = .next t ∧
      t = { s with fault := t.fault, errInfo := t.errInfo, returned := t.returned } ∧
      (s.fault = none → t.fault = some .busyAccess ∧
        t.errInfo = match a with
          | .csrRead idx => csrInfo false idx
          | .csrWrite idx _ => csrInfo true idx
          | .spmRead k => spmInfo false k
          | .spmWrite k _ => spmInfo true k) ∧
      (s.fault ≠ none → t.fault = s.fault ∧ t.errInfo = s.errInfo) ∧
      t.returned = (match a with
        | .csrRead _ => 0 :: s.returned
        | .csrWrite _ _ => s.returned
        | .spmRead _ => 0 :: s.returned
        | .spmWrite _ _ => s.returned) ∧
      (∀ i, s.inflight = some i → commandCheck i s = none →
        ∃ u, unitTurn t = .next u ∧ u.inflight = none ∧ u.done = true)

/-- 20_memory.md R43, R44: on an idle block, a scratch word that is written reads back, counts as
written, and no other scratch byte changes; a read of a word in range records nothing and returns the
word where it is written, and an unspecified value where it is not (93 U1). That this value is the next
of a sequence with no body, counted in a field of the model's own, is the model's choice (log 11). -/
def Obligations.ScratchReadsAndWrites : Prop :=
  ∀ (s : State) (k : BitVec 32), s.inflight = none → k.toNat < s.memWords →
    (∀ v : Word, ∃ t, hostAccess (.spmWrite k v) s = .next t ∧
      hostAccess (.spmRead k) t = .next { t with returned := v :: t.returned } ∧
      t = { s with scratch := t.scratch, spW := t.spW } ∧
      (∀ j, indexIn t.spW j = (indexIn s.spW j || decide (j = k.toNat))) ∧
      (∀ a, a < 8 * k.toNat ∨ 8 * k.toNat + 8 ≤ a →
        Memory.read t.scratch a = Memory.read s.scratch a)) ∧
    (indexIn s.spW k.toNat = true →
      hostAccess (.spmRead k) s =
        .next { s with returned := scratchWord s k.toNat :: s.returned }) ∧
    (indexIn s.spW k.toNat = false →
      hostAccess (.spmRead k) s = .next { s with
        returned := Config.unwrittenRead s.freeReads :: s.returned
        freeReads := s.freeReads + 1 })

/-- 60_exceptions.md R138: a scratch index from M on, while the block is idle. -/
def Obligations.ScratchRangeFaults : Prop :=
  ∀ (s : State) (k : BitVec 32) (v : Word), busy s = false → s.memWords ≤ k.toNat →
    s.fault = none →
    hostAccess (.spmWrite k v) s =
      .next { s with fault := some .spmRange, errInfo := spmInfo true k } ∧
    hostAccess (.spmRead k) s =
      .next { s with
        fault := some .spmRange, errInfo := spmInfo false k, returned := 0 :: s.returned }

/-- 92 D7: in a state that meets the invariant, SPV says that every scratch byte is one that was
written, so that no pipeline command reads an unspecified one. -/
def Obligations.SpvMeansNoUnknownByte : Prop :=
  ∀ s : State, BlockInv s → spv s = true → ∀ a < Config.sizeBytes s.memWords,
    Memory.read s.scratch a = some (scratchByte s a)

/-! ## What may change what -/

/-- 10_state.md R16, R18, R26 to R31, 20_memory.md R38: what a completion step may change, over all
commands. -/
def Obligations.CompletionFrame : Prop :=
  ∀ (i : Instr) (s t : State), s.inflight = some i → unitTurn s = .next t →
    t.inflight = none ∧ t.done = true ∧ t.x = s.x ∧ t.ie = s.ie ∧ t.fault = s.fault ∧
    t.errInfo = s.errInfo ∧ t.nonceLo = s.nonceLo ∧ t.nonceHi = s.nonceHi ∧ t.inp = s.inp ∧
    t.sk = s.sk ∧ t.ak = s.ak ∧ t.inW = s.inW ∧ t.skW = s.skW ∧ t.akW = s.akW ∧
    t.agenda = s.agenda ∧ t.returned = s.returned ∧ t.freeReads = s.freeReads ∧
    (writesResults i = false → t.y = s.y) ∧
    (writesScratch i = false → t.scratch = s.scratch ∧ t.spW = s.spW) ∧
    (writesDigest i = false → t.dg = s.dg ∧ t.dgv = s.dgv)

/-- 10_state.md R31, 20_memory.md R38: what sets a written bit, and that only a reset clears one. -/
def Obligations.WrittenBitsOnlyGrow : Prop :=
  ∀ (e : Event) (s t : State), runEvent e s = .next t →
    (e.isReset = true → (∀ n : Fin 14, t.inW[n] = false) ∧ (∀ n : Fin 16, t.skW[n] = false) ∧
      (∀ n : Fin 2, t.akW[n] = false) ∧ ∀ k, indexIn t.spW k = false) ∧
    (e.isReset = false →
      (∀ n : Fin 14, t.inW[n] = true ↔ s.inW[n] = true ∨
        (busy s = false ∧ ∃ idx v, csrAt idx = .inp n ∧ e = .host (.csrWrite idx v))) ∧
      (∀ n : Fin 16, t.skW[n] = true ↔ s.skW[n] = true ∨
        (busy s = false ∧ ∃ idx v, csrAt idx = .sk n ∧ e = .host (.csrWrite idx v))) ∧
      (∀ n : Fin 2, t.akW[n] = true ↔ s.akW[n] = true ∨
        (busy s = false ∧ ∃ idx v, csrAt idx = .ak n ∧ e = .host (.csrWrite idx v))) ∧
      (∀ k < s.memWords, indexIn t.spW k = true ↔ indexIn s.spW k = true ∨
        (busy s = false ∧ ∃ (j : BitVec 32) (v : Word), j.toNat = k ∧ e = .host (.spmWrite j v)) ∨
        (e = .unit ∧ (s.inflight = some .expand ∨ s.inflight = some .hash))))

/-- 10_state.md R18, R29, 70_reset_and_hazards.md R154: no host access but a reset changes a result or
the digest, and on a busy block none touches the command in flight or anything it uses. -/
def Obligations.HostNeverWritesResults : Prop :=
  ∀ (a : Access) (s t : State), hostAccess a s = .next t → (Event.host a).isReset = false →
    t.y = s.y ∧ t.dg = s.dg ∧ t.dgv = s.dgv ∧ t.agenda = s.agenda ∧
    (busy s = true → t.inflight = s.inflight ∧ t.x = s.x ∧ t.scratch = s.scratch ∧
      t.spW = s.spW ∧ t.inp = s.inp ∧ t.sk = s.sk ∧ t.ak = s.ak ∧ t.nonceLo = s.nonceLo ∧
      t.nonceHi = s.nonceHi ∧ t.inW = s.inW ∧ t.skW = s.skW ∧ t.akW = s.akW)

/-- 00_scope.md R6: no step changes a parameter. -/
def Obligations.ParametersNeverChange : Prop :=
  ∀ s t : State, step s = .next t →
    t.memWords = s.memWords ∧ caps t = caps s ∧ (caps s).extractLsb' 32 8 = 3 ∧
    (caps s).extractLsb' 0 32 = BitVec.ofNat 32 s.memWords

/-! ## Reset and the invariant -/

/-- 10_state.md R35: the state after reset. The value of M is open (log 1); the two last clauses are the
model's own fields, empty by the model's choice (log 6, 7). -/
def Obligations.ResetState : Prop :=
  (∀ n : Fin 7, State.reset.x[n] = 0) ∧ (∀ n : Fin 4, State.reset.y[n] = 0) ∧
  (∀ n : Fin 14, State.reset.inp[n] = 0 ∧ State.reset.inW[n] = false) ∧
  (∀ n : Fin 16, State.reset.sk[n] = 0 ∧ State.reset.skW[n] = false) ∧
  (∀ n : Fin 2, State.reset.ak[n] = 0 ∧ State.reset.akW[n] = false) ∧
  (∀ n : Fin 4, State.reset.dg[n] = 0) ∧ (∀ k, indexIn State.reset.spW k = false) ∧
  State.reset.nonceLo = 0 ∧ State.reset.nonceHi = 0 ∧ State.reset.errInfo = 0 ∧
  status State.reset = 0 ∧ ctrlWord State.reset = 0 ∧ irq State.reset = false ∧
  State.reset.inflight = none ∧ Config.validSize State.reset.memWords = true ∧
  State.reset.agenda = [] ∧ State.reset.returned = []

/-- 70_reset_and_hazards.md R151, R152: what the two resets do, in every state, busy ones included.
The model's choices in it: no reset of the block clears what the agents will do (log 6), what the host
has read (log 7) or the counter of free values (log 11), and a hardware reset lists no scratch byte
(log 13, DEDUCED). -/
def Obligations.ResetEffect : Prop :=
  ∀ s : State,
    (∃ t, runEvent .hardwareReset s = .next t ∧
      t = { State.resetOf s.memWords with
        agenda := s.agenda, returned := s.returned, freeReads := s.freeReads }) ∧
    (∀ v : Word, v.getLsbD 0 = true →
      ∃ t, hostAccess (.csrWrite (csrIndex .ctrl) v) s = .next t ∧
        t = { State.resetOf s.memWords with
          scratch := s.scratch, agenda := s.agenda, returned := s.returned
          freeReads := s.freeReads } ∧
        status t = 0 ∧ t.inflight = none)

/-- The invariant of the block holds at reset. -/
def Obligations.InvAtReset : Prop := BlockInv State.reset

/-- Every step from a state that meets the invariant answers a next state, and that state meets it:
the block never stops, whatever the agents do. -/
def Obligations.StepKeepsInv : Prop :=
  ∀ s : State, BlockInv s → ∃ t, step s = .next t ∧ BlockInv t

/-- 70_reset_and_hazards.md R159, R160: once the agents' plans are used up, one more step leaves the
block quiescent: the completion step happens. R159 says that it happens eventually; that it is the step
after the last planned event is the model's choice (log 14, with the agenda of log 6). -/
def Obligations.BlockComesToRest : Prop :=
  ∀ s : State, BlockInv s →
    ∃ t, Host.Core.run core (s.agenda.length + 1) s = .next t ∧ t.agenda = [] ∧
      t.inflight = none ∧ BlockInv t
end

