-- ==== Sys2Proof/Laws/Bytes.lean ====
section
/-!
SUPPORT. The word and byte views agree (00_scope.md R9; 20_memory.md R37).
-/

namespace Sys2Proof.Machine

@[simp] theorem le64_length (x : Word) : (le64 x).length = 8 := rfl

theorem byteAt_le64 (x : Word) (n : Nat) (h : n < 8) : byteAt (le64 x) n = leByte x n := by
  interval_cases n <;> rfl

@[simp] theorem unle64_le64 (x : Word) : unle64 (le64 x) = x := by
  have h : ∀ n, n < 8 → byteAt (le64 x) n = leByte x n := fun n h => byteAt_le64 x n h
  simp only [unle64, h, Nat.reduceLT]
  apply BitVec.eq_of_getLsbD_eq
  intro i hi
  simp only [leByte, BitVec.getLsbD_append, BitVec.getLsbD_extractLsb']
  interval_cases i <;> simp

theorem leByte_unle64 (s : List Byte) (n : Nat) (h : n < 8) : leByte (unle64 s) n = byteAt s n := by
  apply BitVec.eq_of_getLsbD_eq
  intro i hi
  simp only [leByte, unle64, BitVec.getLsbD_append, BitVec.getLsbD_extractLsb']
  interval_cases n <;> interval_cases i <;> simp

theorem getElem?_of_lt {s : List Byte} {n : Nat} (h : n < s.length) : s[n]? = some (byteAt s n) := by
  simp [byteAt, h]

theorem le64_unle64 (s : List Byte) (h : s.length = 8) : le64 (unle64 s) = s := by
  apply List.ext_getElem?
  intro n
  by_cases hn : n < 8
  · rw [getElem?_of_lt (by simpa using hn), getElem?_of_lt (by omega), byteAt_le64 _ _ hn,
      leByte_unle64 _ _ hn]
  · rw [List.getElem?_eq_none (by simp; omega), List.getElem?_eq_none (by omega)]

@[simp] theorem wordsToBytes_length (ws : List Word) :
    (wordsToBytes ws).length = 8 * ws.length := by
  induction ws with
  | nil => rfl
  | cons w ws ih =>
    have : wordsToBytes (w :: ws) = le64 w ++ wordsToBytes ws := rfl
    rw [this, List.length_append, ih, le64_length, List.length_cons]; omega

@[simp] theorem bytesToWords_length (n : Nat) (s : List Byte) :
    (bytesToWords n s).length = n := by simp [bytesToWords]

theorem slice_length (s : List Byte) (a n : Nat) (h : a + n ≤ s.length) :
    (slice s a n).length = n := by simp [slice]; omega

theorem slice_wordsToBytes (ws : List Word) (k : Nat) (h : k < ws.length) :
    slice (wordsToBytes ws) (8 * k) 8 = le64 ws[k] := by
  induction ws generalizing k with
  | nil => simp at h
  | cons w ws ih =>
    have e : wordsToBytes (w :: ws) = le64 w ++ wordsToBytes ws := rfl
    cases k with
    | zero =>
      have : (8 : Nat) = (le64 w).length := rfl
      rw [e, slice, Nat.mul_zero, List.drop_zero, this, List.take_left]; rfl
    | succ k =>
      have h2 : 8 * (k + 1) = (le64 w).length + 8 * k := by rw [le64_length]; omega
      rw [List.getElem_cons_succ, ← ih k (by simpa using h), e, slice, h2, List.drop_append,
        List.drop_of_length_le (by omega)]
      simp [slice]

theorem bytesToWords_wordsToBytes (ws : List Word) :
    bytesToWords ws.length (wordsToBytes ws) = ws := by
  apply List.ext_getElem (by simp)
  intro k h1 h2
  simp [bytesToWords, slice_wordsToBytes ws k h2]

theorem getElem?_slice (s : List Byte) (a n i : Nat) (h : i < n) :
    (slice s a n)[i]? = s[a + i]? := by
  simp [slice, h]

theorem getElem?_wordsToBytes (ws : List Word) (k i : Nat) (hi : i < 8) (hk : k < ws.length) :
    (wordsToBytes ws)[8 * k + i]? = (le64 ws[k])[i]? := by
  rw [← slice_wordsToBytes ws k hk, getElem?_slice _ _ _ _ hi]

theorem wordsToBytes_bytesToWords (n : Nat) (s : List Byte) (h : s.length = 8 * n) :
    wordsToBytes (bytesToWords n s) = s := by
  apply List.ext_getElem?
  intro i
  by_cases hi : i < 8 * n
  · have e : i = 8 * (i / 8) + i % 8 := by omega
    have hk : i / 8 < n := by omega
    rw [e, getElem?_wordsToBytes _ _ _ (by omega) (by simpa using hk)]
    have h2 : (bytesToWords n s)[i / 8]'(by simpa using hk) = unle64 (slice s (8 * (i / 8)) 8) := by
      simp [bytesToWords]
    rw [h2, le64_unle64 _ (slice_length _ _ _ (by omega)), getElem?_slice _ _ _ _ (by omega)]
  · rw [List.getElem?_eq_none (by simp; omega), List.getElem?_eq_none (by omega)]

/-! ### `combine` and its halves -/

theorem toNat_combine (hi lo : Word) : (combine hi lo).toNat = hi.toNat * 2 ^ 64 + lo.toNat := by
  rw [combine, BitVec.toNat_append, ← Nat.shiftLeft_add_eq_or_of_lt lo.isLt, Nat.shiftLeft_eq]

@[simp] theorem combine_eq_zero (hi lo : Word) : combine hi lo = 0#128 ↔ hi = 0#64 ∧ lo = 0#64 := by
  constructor
  · intro h
    have h' := congrArg BitVec.toNat h
    rw [toNat_combine] at h'
    simp at h'
    constructor <;> apply BitVec.eq_of_toNat_eq <;> simp <;> omega
  · rintro ⟨rfl, rfl⟩; rfl

theorem toNat_lo64 (z : DWord) : (lo64 z).toNat = z.toNat % 2 ^ 64 := by
  simp [lo64, BitVec.extractLsb'_toNat]

theorem toNat_hi64 (z : DWord) : (hi64 z).toNat = z.toNat / 2 ^ 64 := by
  have := z.isLt
  simp only [hi64, BitVec.extractLsb'_toNat, Nat.shiftRight_eq_div_pow]
  omega

end Sys2Proof.Machine
end

