-- ==== Sys2Proof/Laws/Memory.lean ====
section
/-!
SUPPORT. Read after write, and the canonical form: every operation on the store and on the set of
written words keeps it.
-/

namespace Sys2Proof.Machine

/-! ### Reading what was written -/

@[simp] theorem Memory.read_nil (a : Nat) : Memory.read [] a = none := rfl

theorem Memory.read_cons (b : Nat) (v : Byte) (m : List Host.Cell) (a : Nat) :
    Memory.read ((b, v) :: m) a = if b = a then some v else Memory.read m a := rfl

theorem Memory.read_write (m : List Host.Cell) (a : Nat) (v : Byte) (b : Nat) :
    Memory.read (Memory.write m a v) b = if a = b then some v else Memory.read m b := by
  induction m with
  | nil => rfl
  | cons c m ih =>
    obtain ⟨k, w⟩ := c
    simp only [Memory.write]
    split
    · rfl
    · split
      · subst k; simp only [Memory.read_cons]; split <;> rfl
      · simp only [Memory.read_cons, ih]
        split <;> split <;> simp_all

theorem Memory.read_writeBytes (vs : List Byte) (m : List Host.Cell) (a b : Nat) :
    Memory.read (Memory.writeBytes m a vs) b =
      if a ≤ b then (vs[b - a]?).or (Memory.read m b) else Memory.read m b := by
  induction vs generalizing m a with
  | nil => simp [Memory.writeBytes]
  | cons v vs ih =>
    simp only [Memory.writeBytes, ih, Memory.read_write]
    rcases Nat.lt_trichotomy a b with h | h | h
    · have h1 : a + 1 ≤ b := h
      have h2 : b - a = (b - (a + 1)) + 1 := by omega
      have h3 : ¬ a = b := by omega
      have h4 : a ≤ b := by omega
      simp [h1, h2, h3, h4]
    · subst h; simp
    · have h1 : ¬ a + 1 ≤ b := by omega
      have h2 : ¬ a = b := by omega
      have h3 : ¬ a ≤ b := by omega
      simp [h1, h2, h3]

theorem Memory.read_ofBytes (vs : List Byte) (a b : Nat) :
    Memory.read (Memory.ofBytes a vs) b = if a ≤ b then vs[b - a]? else none := by
  induction vs generalizing a with
  | nil => simp [Memory.ofBytes]
  | cons v vs ih =>
    simp only [Memory.ofBytes, Memory.read_cons, ih]
    rcases Nat.lt_trichotomy a b with h | h | h
    · have h1 : a + 1 ≤ b := h
      have h2 : b - a = (b - (a + 1)) + 1 := by omega
      have h3 : ¬ a = b := by omega
      have h4 : a ≤ b := by omega
      simp [h1, h2, h3, h4]
    · subst h; simp
    · have h1 : ¬ a + 1 ≤ b := by omega
      have h2 : ¬ a = b := by omega
      have h3 : ¬ a ≤ b := by omega
      simp [h1, h2, h3]

/-! ### The canonical form -/

theorem Memory.wfFrom_mono {lo lo' : Nat} {m : List Host.Cell} (h : lo' ≤ lo)
    (hm : Memory.wfFrom lo m = true) : Memory.wfFrom lo' m = true := by
  cases m with
  | nil => rfl
  | cons c m => simp [Memory.wfFrom] at hm ⊢; exact ⟨by omega, hm.2⟩

theorem Memory.wfFrom_write {m : List Host.Cell} {lo a : Nat} {v : Byte} (hl : lo ≤ a)
    (hm : Memory.wfFrom lo m = true) : Memory.wfFrom lo (Memory.write m a v) = true := by
  induction m generalizing lo with
  | nil => simp [Memory.write, Memory.wfFrom, hl]
  | cons c m ih =>
    obtain ⟨b, w⟩ := c
    simp only [Memory.wfFrom, Bool.and_eq_true, decide_eq_true_eq] at hm
    simp only [Memory.write]
    split
    · rename_i h
      simp only [Memory.wfFrom, Bool.and_eq_true, decide_eq_true_eq]
      exact ⟨hl, h, hm.2⟩
    · split
      · subst b
        simp only [Memory.wfFrom, Bool.and_eq_true, decide_eq_true_eq]
        exact ⟨hl, hm.2⟩
      · simp only [Memory.wfFrom, Bool.and_eq_true, decide_eq_true_eq]
        exact ⟨hm.1, ih (by omega) hm.2⟩

theorem Memory.wf_write {m : List Host.Cell} (a : Nat) (v : Byte) (hm : Memory.wf m = true) :
    Memory.wf (Memory.write m a v) = true :=
  Memory.wfFrom_write (Nat.zero_le a) hm

theorem Memory.wf_writeBytes {m : List Host.Cell} (a : Nat) (vs : List Byte)
    (hm : Memory.wf m = true) : Memory.wf (Memory.writeBytes m a vs) = true := by
  induction vs generalizing m a with
  | nil => exact hm
  | cons v vs ih => exact ih (a + 1) (Memory.wf_write a v hm)

theorem Memory.wfFrom_ofBytes (a : Nat) (vs : List Byte) :
    Memory.wfFrom a (Memory.ofBytes a vs) = true := by
  induction vs generalizing a with
  | nil => rfl
  | cons v vs ih => simp [Memory.ofBytes, Memory.wfFrom, ih]

theorem Memory.wf_ofBytes (vs : List Byte) : Memory.wf (Memory.ofBytes 0 vs) = true :=
  Memory.wfFrom_ofBytes 0 vs

theorem Memory.wf_reset : Memory.wf State.reset.scratch = true := rfl

theorem Memory.mem_write {m : List Host.Cell} {a : Nat} {v : Byte} {c : Host.Cell}
    (h : c ∈ Memory.write m a v) : c = (a, v) ∨ c ∈ m := by
  induction m with
  | nil => simpa [Memory.write] using h
  | cons d m ih =>
    obtain ⟨b, w⟩ := d
    simp only [Memory.write] at h
    split at h
    · simp at h ⊢; tauto
    · split at h
      · simp at h ⊢; tauto
      · simp at h ⊢
        rcases h with h | h
        · tauto
        · rcases ih h with h | h <;> tauto

theorem Memory.mem_writeBytes {vs : List Byte} {m : List Host.Cell} {a : Nat} {c : Host.Cell}
    (h : c ∈ Memory.writeBytes m a vs) : (a ≤ c.1 ∧ c.1 < a + vs.length) ∨ c ∈ m := by
  induction vs generalizing m a with
  | nil => exact .inr h
  | cons v vs ih =>
    rcases ih h with h | h
    · left; simp; omega
    · rcases Memory.mem_write h with h | h
      · left; subst h; simp
      · exact .inr h

theorem Memory.mem_ofBytes {vs : List Byte} {a : Nat} {c : Host.Cell}
    (h : c ∈ Memory.ofBytes a vs) : a ≤ c.1 ∧ c.1 < a + vs.length := by
  induction vs generalizing a with
  | nil => simp [Memory.ofBytes] at h
  | cons v vs ih =>
    simp [Memory.ofBytes] at h
    rcases h with h | h
    · subst h; simp
    · have := ih h; simp; omega

/-! ### The set of written words -/

theorem mem_indexInsert {ks : List Nat} {k j : Nat} :
    j ∈ indexInsert ks k ↔ j = k ∨ j ∈ ks := by
  induction ks with
  | nil => simp [indexInsert]
  | cons i ks ih =>
    simp only [indexInsert]
    split
    · simp
    · split
      · subst i; simp
      · simp [ih]; tauto

theorem indexIn_iff {ks : List Nat} {k : Nat} : indexIn ks k = true ↔ k ∈ ks := by
  simp [indexIn]

@[simp] theorem indexIn_indexInsert (ks : List Nat) (k j : Nat) :
    indexIn (indexInsert ks k) j = (decide (j = k) || indexIn ks j) := by
  rw [Bool.eq_iff_iff]; simp [indexIn_iff, mem_indexInsert]

theorem indexWfFrom_indexInsert {ks : List Nat} {lo k : Nat} (hl : lo ≤ k)
    (h : indexWfFrom lo ks = true) : indexWfFrom lo (indexInsert ks k) = true := by
  induction ks generalizing lo with
  | nil => simp [indexInsert, indexWfFrom, hl]
  | cons j ks ih =>
    simp only [indexWfFrom, Bool.and_eq_true, decide_eq_true_eq] at h
    simp only [indexInsert]
    split
    · rename_i hk
      simp only [indexWfFrom, Bool.and_eq_true, decide_eq_true_eq]
      exact ⟨hl, hk, h.2⟩
    · split
      · simp only [indexWfFrom, Bool.and_eq_true, decide_eq_true_eq]; exact h
      · simp only [indexWfFrom, Bool.and_eq_true, decide_eq_true_eq]
        exact ⟨h.1, ih (by omega) h.2⟩

theorem indexWfFrom_range' (a n : Nat) : indexWfFrom a (List.range' a n) = true := by
  induction n generalizing a with
  | zero => rfl
  | succ n ih => simp [List.range'_succ, indexWfFrom, ih]

theorem indexWf_range (n : Nat) : indexWfFrom 0 (List.range n) = true := by
  rw [List.range_eq_range']; exact indexWfFrom_range' 0 n

end Sys2Proof.Machine
end

