-- ==== Sys2Proof/Laws/State.lean ====
section
/-!
SUPPORT. One lemma per field per update of the state, each true by unfolding the update once.
-/

namespace Sys2Proof.Machine

section
variable (s : State)

/-! ### `accept` -/

@[simp] theorem accept_x (i : Instr) : (accept i s).x = s.x := rfl
@[simp] theorem accept_y (i : Instr) : (accept i s).y = s.y := rfl
@[simp] theorem accept_ie (i : Instr) : (accept i s).ie = s.ie := rfl
@[simp] theorem accept_done (i : Instr) : (accept i s).done = false := rfl
@[simp] theorem accept_fault (i : Instr) : (accept i s).fault = s.fault := rfl
@[simp] theorem accept_dgv (i : Instr) : (accept i s).dgv = s.dgv := rfl
@[simp] theorem accept_errInfo (i : Instr) : (accept i s).errInfo = s.errInfo := rfl
@[simp] theorem accept_nonceLo (i : Instr) : (accept i s).nonceLo = s.nonceLo := rfl
@[simp] theorem accept_nonceHi (i : Instr) : (accept i s).nonceHi = s.nonceHi := rfl
@[simp] theorem accept_inp (i : Instr) : (accept i s).inp = s.inp := rfl
@[simp] theorem accept_sk (i : Instr) : (accept i s).sk = s.sk := rfl
@[simp] theorem accept_ak (i : Instr) : (accept i s).ak = s.ak := rfl
@[simp] theorem accept_dg (i : Instr) : (accept i s).dg = s.dg := rfl
@[simp] theorem accept_inW (i : Instr) : (accept i s).inW = s.inW := rfl
@[simp] theorem accept_skW (i : Instr) : (accept i s).skW = s.skW := rfl
@[simp] theorem accept_akW (i : Instr) : (accept i s).akW = s.akW := rfl
@[simp] theorem accept_scratch (i : Instr) : (accept i s).scratch = s.scratch := rfl
@[simp] theorem accept_spW (i : Instr) : (accept i s).spW = s.spW := rfl
@[simp] theorem accept_inflight (i : Instr) : (accept i s).inflight = some i := rfl
@[simp] theorem accept_memWords (i : Instr) : (accept i s).memWords = s.memWords := rfl
@[simp] theorem accept_agenda (i : Instr) : (accept i s).agenda = s.agenda := rfl
@[simp] theorem accept_returned (i : Instr) : (accept i s).returned = s.returned := rfl
@[simp] theorem accept_freeReads (i : Instr) : (accept i s).freeReads = s.freeReads := rfl

/-! ### `retire` -/

@[simp] theorem retire_x : (retire s).x = s.x := rfl
@[simp] theorem retire_y : (retire s).y = s.y := rfl
@[simp] theorem retire_ie : (retire s).ie = s.ie := rfl
@[simp] theorem retire_done : (retire s).done = true := rfl
@[simp] theorem retire_fault : (retire s).fault = s.fault := rfl
@[simp] theorem retire_dgv : (retire s).dgv = s.dgv := rfl
@[simp] theorem retire_errInfo : (retire s).errInfo = s.errInfo := rfl
@[simp] theorem retire_nonceLo : (retire s).nonceLo = s.nonceLo := rfl
@[simp] theorem retire_nonceHi : (retire s).nonceHi = s.nonceHi := rfl
@[simp] theorem retire_inp : (retire s).inp = s.inp := rfl
@[simp] theorem retire_sk : (retire s).sk = s.sk := rfl
@[simp] theorem retire_ak : (retire s).ak = s.ak := rfl
@[simp] theorem retire_dg : (retire s).dg = s.dg := rfl
@[simp] theorem retire_inW : (retire s).inW = s.inW := rfl
@[simp] theorem retire_skW : (retire s).skW = s.skW := rfl
@[simp] theorem retire_akW : (retire s).akW = s.akW := rfl
@[simp] theorem retire_scratch : (retire s).scratch = s.scratch := rfl
@[simp] theorem retire_spW : (retire s).spW = s.spW := rfl
@[simp] theorem retire_inflight : (retire s).inflight = none := rfl
@[simp] theorem retire_memWords : (retire s).memWords = s.memWords := rfl
@[simp] theorem retire_agenda : (retire s).agenda = s.agenda := rfl
@[simp] theorem retire_returned : (retire s).returned = s.returned := rfl
@[simp] theorem retire_freeReads : (retire s).freeReads = s.freeReads := rfl

/-! ### `writeResults` -/

@[simp] theorem writeResults_x (a b c d : Word) : (writeResults a b c d s).x = s.x := rfl
@[simp] theorem writeResults_y (a b c d : Word) : (writeResults a b c d s).y = #v[a, b, c, d] := rfl
@[simp] theorem writeResults_ie (a b c d : Word) : (writeResults a b c d s).ie = s.ie := rfl
@[simp] theorem writeResults_done (a b c d : Word) : (writeResults a b c d s).done = s.done := rfl
@[simp] theorem writeResults_fault (a b c d : Word) : (writeResults a b c d s).fault = s.fault := rfl
@[simp] theorem writeResults_dgv (a b c d : Word) : (writeResults a b c d s).dgv = s.dgv := rfl
@[simp] theorem writeResults_errInfo (a b c d : Word) : (writeResults a b c d s).errInfo = s.errInfo := rfl
@[simp] theorem writeResults_nonceLo (a b c d : Word) : (writeResults a b c d s).nonceLo = s.nonceLo := rfl
@[simp] theorem writeResults_nonceHi (a b c d : Word) : (writeResults a b c d s).nonceHi = s.nonceHi := rfl
@[simp] theorem writeResults_inp (a b c d : Word) : (writeResults a b c d s).inp = s.inp := rfl
@[simp] theorem writeResults_sk (a b c d : Word) : (writeResults a b c d s).sk = s.sk := rfl
@[simp] theorem writeResults_ak (a b c d : Word) : (writeResults a b c d s).ak = s.ak := rfl
@[simp] theorem writeResults_dg (a b c d : Word) : (writeResults a b c d s).dg = s.dg := rfl
@[simp] theorem writeResults_inW (a b c d : Word) : (writeResults a b c d s).inW = s.inW := rfl
@[simp] theorem writeResults_skW (a b c d : Word) : (writeResults a b c d s).skW = s.skW := rfl
@[simp] theorem writeResults_akW (a b c d : Word) : (writeResults a b c d s).akW = s.akW := rfl
@[simp] theorem writeResults_scratch (a b c d : Word) : (writeResults a b c d s).scratch = s.scratch := rfl
@[simp] theorem writeResults_spW (a b c d : Word) : (writeResults a b c d s).spW = s.spW := rfl
@[simp] theorem writeResults_inflight (a b c d : Word) : (writeResults a b c d s).inflight = s.inflight := rfl
@[simp] theorem writeResults_memWords (a b c d : Word) : (writeResults a b c d s).memWords = s.memWords := rfl
@[simp] theorem writeResults_agenda (a b c d : Word) : (writeResults a b c d s).agenda = s.agenda := rfl
@[simp] theorem writeResults_returned (a b c d : Word) : (writeResults a b c d s).returned = s.returned := rfl
@[simp] theorem writeResults_freeReads (a b c d : Word) : (writeResults a b c d s).freeReads = s.freeReads := rfl

/-! ### `writeMix` -/

@[simp] theorem writeMix_x (k v : Word) : (writeMix k v s).x = s.x := rfl
@[simp] theorem writeMix_y (k v : Word) : (writeMix k v s).y = #v[v, k, 0, 0] := rfl
@[simp] theorem writeMix_ie (k v : Word) : (writeMix k v s).ie = s.ie := rfl
@[simp] theorem writeMix_done (k v : Word) : (writeMix k v s).done = s.done := rfl
@[simp] theorem writeMix_fault (k v : Word) : (writeMix k v s).fault = s.fault := rfl
@[simp] theorem writeMix_dgv (k v : Word) : (writeMix k v s).dgv = s.dgv := rfl
@[simp] theorem writeMix_errInfo (k v : Word) : (writeMix k v s).errInfo = s.errInfo := rfl
@[simp] theorem writeMix_nonceLo (k v : Word) : (writeMix k v s).nonceLo = s.nonceLo := rfl
@[simp] theorem writeMix_nonceHi (k v : Word) : (writeMix k v s).nonceHi = s.nonceHi := rfl
@[simp] theorem writeMix_inp (k v : Word) : (writeMix k v s).inp = s.inp := rfl
@[simp] theorem writeMix_sk (k v : Word) : (writeMix k v s).sk = s.sk := rfl
@[simp] theorem writeMix_ak (k v : Word) : (writeMix k v s).ak = s.ak := rfl
@[simp] theorem writeMix_dg (k v : Word) : (writeMix k v s).dg = s.dg := rfl
@[simp] theorem writeMix_inW (k v : Word) : (writeMix k v s).inW = s.inW := rfl
@[simp] theorem writeMix_skW (k v : Word) : (writeMix k v s).skW = s.skW := rfl
@[simp] theorem writeMix_akW (k v : Word) : (writeMix k v s).akW = s.akW := rfl
@[simp] theorem writeMix_scratch (k v : Word) : (writeMix k v s).scratch = s.scratch := rfl
@[simp] theorem writeMix_spW (k v : Word) : (writeMix k v s).spW = s.spW := rfl
@[simp] theorem writeMix_inflight (k v : Word) : (writeMix k v s).inflight = s.inflight := rfl
@[simp] theorem writeMix_memWords (k v : Word) : (writeMix k v s).memWords = s.memWords := rfl
@[simp] theorem writeMix_agenda (k v : Word) : (writeMix k v s).agenda = s.agenda := rfl
@[simp] theorem writeMix_returned (k v : Word) : (writeMix k v s).returned = s.returned := rfl
@[simp] theorem writeMix_freeReads (k v : Word) : (writeMix k v s).freeReads = s.freeReads := rfl

/-! ### `writeScratchAll` -/

@[simp] theorem writeScratchAll_x (ws : List Word) : (writeScratchAll ws s).x = s.x := rfl
@[simp] theorem writeScratchAll_y (ws : List Word) : (writeScratchAll ws s).y = s.y := rfl
@[simp] theorem writeScratchAll_ie (ws : List Word) : (writeScratchAll ws s).ie = s.ie := rfl
@[simp] theorem writeScratchAll_done (ws : List Word) : (writeScratchAll ws s).done = s.done := rfl
@[simp] theorem writeScratchAll_fault (ws : List Word) : (writeScratchAll ws s).fault = s.fault := rfl
@[simp] theorem writeScratchAll_dgv (ws : List Word) : (writeScratchAll ws s).dgv = s.dgv := rfl
@[simp] theorem writeScratchAll_errInfo (ws : List Word) : (writeScratchAll ws s).errInfo = s.errInfo := rfl
@[simp] theorem writeScratchAll_nonceLo (ws : List Word) : (writeScratchAll ws s).nonceLo = s.nonceLo := rfl
@[simp] theorem writeScratchAll_nonceHi (ws : List Word) : (writeScratchAll ws s).nonceHi = s.nonceHi := rfl
@[simp] theorem writeScratchAll_inp (ws : List Word) : (writeScratchAll ws s).inp = s.inp := rfl
@[simp] theorem writeScratchAll_sk (ws : List Word) : (writeScratchAll ws s).sk = s.sk := rfl
@[simp] theorem writeScratchAll_ak (ws : List Word) : (writeScratchAll ws s).ak = s.ak := rfl
@[simp] theorem writeScratchAll_dg (ws : List Word) : (writeScratchAll ws s).dg = s.dg := rfl
@[simp] theorem writeScratchAll_inW (ws : List Word) : (writeScratchAll ws s).inW = s.inW := rfl
@[simp] theorem writeScratchAll_skW (ws : List Word) : (writeScratchAll ws s).skW = s.skW := rfl
@[simp] theorem writeScratchAll_akW (ws : List Word) : (writeScratchAll ws s).akW = s.akW := rfl
@[simp] theorem writeScratchAll_scratch (ws : List Word) : (writeScratchAll ws s).scratch = Memory.ofBytes 0 (wordsToBytes ws) := rfl
@[simp] theorem writeScratchAll_spW (ws : List Word) : (writeScratchAll ws s).spW = List.range s.memWords := rfl
@[simp] theorem writeScratchAll_inflight (ws : List Word) : (writeScratchAll ws s).inflight = s.inflight := rfl
@[simp] theorem writeScratchAll_memWords (ws : List Word) : (writeScratchAll ws s).memWords = s.memWords := rfl
@[simp] theorem writeScratchAll_agenda (ws : List Word) : (writeScratchAll ws s).agenda = s.agenda := rfl
@[simp] theorem writeScratchAll_returned (ws : List Word) : (writeScratchAll ws s).returned = s.returned := rfl
@[simp] theorem writeScratchAll_freeReads (ws : List Word) : (writeScratchAll ws s).freeReads = s.freeReads := rfl

/-! ### `mixScratch` -/

@[simp] theorem mixScratch_x (ws : List Word) : (mixScratch ws s).x = s.x := rfl
@[simp] theorem mixScratch_y (ws : List Word) : (mixScratch ws s).y = s.y := rfl
@[simp] theorem mixScratch_ie (ws : List Word) : (mixScratch ws s).ie = s.ie := rfl
@[simp] theorem mixScratch_done (ws : List Word) : (mixScratch ws s).done = s.done := rfl
@[simp] theorem mixScratch_fault (ws : List Word) : (mixScratch ws s).fault = s.fault := rfl
@[simp] theorem mixScratch_dgv (ws : List Word) : (mixScratch ws s).dgv = s.dgv := rfl
@[simp] theorem mixScratch_errInfo (ws : List Word) : (mixScratch ws s).errInfo = s.errInfo := rfl
@[simp] theorem mixScratch_nonceLo (ws : List Word) : (mixScratch ws s).nonceLo = s.nonceLo := rfl
@[simp] theorem mixScratch_nonceHi (ws : List Word) : (mixScratch ws s).nonceHi = s.nonceHi := rfl
@[simp] theorem mixScratch_inp (ws : List Word) : (mixScratch ws s).inp = s.inp := rfl
@[simp] theorem mixScratch_sk (ws : List Word) : (mixScratch ws s).sk = s.sk := rfl
@[simp] theorem mixScratch_ak (ws : List Word) : (mixScratch ws s).ak = s.ak := rfl
@[simp] theorem mixScratch_dg (ws : List Word) : (mixScratch ws s).dg = s.dg := rfl
@[simp] theorem mixScratch_inW (ws : List Word) : (mixScratch ws s).inW = s.inW := rfl
@[simp] theorem mixScratch_skW (ws : List Word) : (mixScratch ws s).skW = s.skW := rfl
@[simp] theorem mixScratch_akW (ws : List Word) : (mixScratch ws s).akW = s.akW := rfl
@[simp] theorem mixScratch_scratch (ws : List Word) : (mixScratch ws s).scratch = Memory.ofBytes 0 (wordsToBytes ws) := rfl
@[simp] theorem mixScratch_spW (ws : List Word) : (mixScratch ws s).spW = s.spW := rfl
@[simp] theorem mixScratch_inflight (ws : List Word) : (mixScratch ws s).inflight = s.inflight := rfl
@[simp] theorem mixScratch_memWords (ws : List Word) : (mixScratch ws s).memWords = s.memWords := rfl
@[simp] theorem mixScratch_agenda (ws : List Word) : (mixScratch ws s).agenda = s.agenda := rfl
@[simp] theorem mixScratch_returned (ws : List Word) : (mixScratch ws s).returned = s.returned := rfl
@[simp] theorem mixScratch_freeReads (ws : List Word) : (mixScratch ws s).freeReads = s.freeReads := rfl

/-! ### `writeScratchWord` -/

@[simp] theorem writeScratchWord_x (k : Nat) (v : Word) : (writeScratchWord k v s).x = s.x := rfl
@[simp] theorem writeScratchWord_y (k : Nat) (v : Word) : (writeScratchWord k v s).y = s.y := rfl
@[simp] theorem writeScratchWord_ie (k : Nat) (v : Word) : (writeScratchWord k v s).ie = s.ie := rfl
@[simp] theorem writeScratchWord_done (k : Nat) (v : Word) : (writeScratchWord k v s).done = s.done := rfl
@[simp] theorem writeScratchWord_fault (k : Nat) (v : Word) : (writeScratchWord k v s).fault = s.fault := rfl
@[simp] theorem writeScratchWord_dgv (k : Nat) (v : Word) : (writeScratchWord k v s).dgv = s.dgv := rfl
@[simp] theorem writeScratchWord_errInfo (k : Nat) (v : Word) : (writeScratchWord k v s).errInfo = s.errInfo := rfl
@[simp] theorem writeScratchWord_nonceLo (k : Nat) (v : Word) : (writeScratchWord k v s).nonceLo = s.nonceLo := rfl
@[simp] theorem writeScratchWord_nonceHi (k : Nat) (v : Word) : (writeScratchWord k v s).nonceHi = s.nonceHi := rfl
@[simp] theorem writeScratchWord_inp (k : Nat) (v : Word) : (writeScratchWord k v s).inp = s.inp := rfl
@[simp] theorem writeScratchWord_sk (k : Nat) (v : Word) : (writeScratchWord k v s).sk = s.sk := rfl
@[simp] theorem writeScratchWord_ak (k : Nat) (v : Word) : (writeScratchWord k v s).ak = s.ak := rfl
@[simp] theorem writeScratchWord_dg (k : Nat) (v : Word) : (writeScratchWord k v s).dg = s.dg := rfl
@[simp] theorem writeScratchWord_inW (k : Nat) (v : Word) : (writeScratchWord k v s).inW = s.inW := rfl
@[simp] theorem writeScratchWord_skW (k : Nat) (v : Word) : (writeScratchWord k v s).skW = s.skW := rfl
@[simp] theorem writeScratchWord_akW (k : Nat) (v : Word) : (writeScratchWord k v s).akW = s.akW := rfl
@[simp] theorem writeScratchWord_scratch (k : Nat) (v : Word) : (writeScratchWord k v s).scratch = Memory.writeBytes s.scratch (8 * k) (le64 v) := rfl
@[simp] theorem writeScratchWord_spW (k : Nat) (v : Word) : (writeScratchWord k v s).spW = indexInsert s.spW k := rfl
@[simp] theorem writeScratchWord_inflight (k : Nat) (v : Word) : (writeScratchWord k v s).inflight = s.inflight := rfl
@[simp] theorem writeScratchWord_memWords (k : Nat) (v : Word) : (writeScratchWord k v s).memWords = s.memWords := rfl
@[simp] theorem writeScratchWord_agenda (k : Nat) (v : Word) : (writeScratchWord k v s).agenda = s.agenda := rfl
@[simp] theorem writeScratchWord_returned (k : Nat) (v : Word) : (writeScratchWord k v s).returned = s.returned := rfl
@[simp] theorem writeScratchWord_freeReads (k : Nat) (v : Word) : (writeScratchWord k v s).freeReads = s.freeReads := rfl

/-! ### `writeDigest` -/

@[simp] theorem writeDigest_x (d : List Byte) : (writeDigest d s).x = s.x := rfl
@[simp] theorem writeDigest_y (d : List Byte) : (writeDigest d s).y = s.y := rfl
@[simp] theorem writeDigest_ie (d : List Byte) : (writeDigest d s).ie = s.ie := rfl
@[simp] theorem writeDigest_done (d : List Byte) : (writeDigest d s).done = s.done := rfl
@[simp] theorem writeDigest_fault (d : List Byte) : (writeDigest d s).fault = s.fault := rfl
@[simp] theorem writeDigest_dgv (d : List Byte) : (writeDigest d s).dgv = true := rfl
@[simp] theorem writeDigest_errInfo (d : List Byte) : (writeDigest d s).errInfo = s.errInfo := rfl
@[simp] theorem writeDigest_nonceLo (d : List Byte) : (writeDigest d s).nonceLo = s.nonceLo := rfl
@[simp] theorem writeDigest_nonceHi (d : List Byte) : (writeDigest d s).nonceHi = s.nonceHi := rfl
@[simp] theorem writeDigest_inp (d : List Byte) : (writeDigest d s).inp = s.inp := rfl
@[simp] theorem writeDigest_sk (d : List Byte) : (writeDigest d s).sk = s.sk := rfl
@[simp] theorem writeDigest_ak (d : List Byte) : (writeDigest d s).ak = s.ak := rfl
@[simp] theorem writeDigest_dg (d : List Byte) : (writeDigest d s).dg = #v[unle64 (slice d 0 8), unle64 (slice d 8 8),
    unle64 (slice d 16 8), unle64 (slice d 24 8)] := rfl
@[simp] theorem writeDigest_inW (d : List Byte) : (writeDigest d s).inW = s.inW := rfl
@[simp] theorem writeDigest_skW (d : List Byte) : (writeDigest d s).skW = s.skW := rfl
@[simp] theorem writeDigest_akW (d : List Byte) : (writeDigest d s).akW = s.akW := rfl
@[simp] theorem writeDigest_scratch (d : List Byte) : (writeDigest d s).scratch = s.scratch := rfl
@[simp] theorem writeDigest_spW (d : List Byte) : (writeDigest d s).spW = s.spW := rfl
@[simp] theorem writeDigest_inflight (d : List Byte) : (writeDigest d s).inflight = s.inflight := rfl
@[simp] theorem writeDigest_memWords (d : List Byte) : (writeDigest d s).memWords = s.memWords := rfl
@[simp] theorem writeDigest_agenda (d : List Byte) : (writeDigest d s).agenda = s.agenda := rfl
@[simp] theorem writeDigest_returned (d : List Byte) : (writeDigest d s).returned = s.returned := rfl
@[simp] theorem writeDigest_freeReads (d : List Byte) : (writeDigest d s).freeReads = s.freeReads := rfl

/-! ### `deliver` -/

@[simp] theorem deliver_x (v : Word) : (deliver v s).x = s.x := rfl
@[simp] theorem deliver_y (v : Word) : (deliver v s).y = s.y := rfl
@[simp] theorem deliver_ie (v : Word) : (deliver v s).ie = s.ie := rfl
@[simp] theorem deliver_done (v : Word) : (deliver v s).done = s.done := rfl
@[simp] theorem deliver_fault (v : Word) : (deliver v s).fault = s.fault := rfl
@[simp] theorem deliver_dgv (v : Word) : (deliver v s).dgv = s.dgv := rfl
@[simp] theorem deliver_errInfo (v : Word) : (deliver v s).errInfo = s.errInfo := rfl
@[simp] theorem deliver_nonceLo (v : Word) : (deliver v s).nonceLo = s.nonceLo := rfl
@[simp] theorem deliver_nonceHi (v : Word) : (deliver v s).nonceHi = s.nonceHi := rfl
@[simp] theorem deliver_inp (v : Word) : (deliver v s).inp = s.inp := rfl
@[simp] theorem deliver_sk (v : Word) : (deliver v s).sk = s.sk := rfl
@[simp] theorem deliver_ak (v : Word) : (deliver v s).ak = s.ak := rfl
@[simp] theorem deliver_dg (v : Word) : (deliver v s).dg = s.dg := rfl
@[simp] theorem deliver_inW (v : Word) : (deliver v s).inW = s.inW := rfl
@[simp] theorem deliver_skW (v : Word) : (deliver v s).skW = s.skW := rfl
@[simp] theorem deliver_akW (v : Word) : (deliver v s).akW = s.akW := rfl
@[simp] theorem deliver_scratch (v : Word) : (deliver v s).scratch = s.scratch := rfl
@[simp] theorem deliver_spW (v : Word) : (deliver v s).spW = s.spW := rfl
@[simp] theorem deliver_inflight (v : Word) : (deliver v s).inflight = s.inflight := rfl
@[simp] theorem deliver_memWords (v : Word) : (deliver v s).memWords = s.memWords := rfl
@[simp] theorem deliver_agenda (v : Word) : (deliver v s).agenda = s.agenda := rfl
@[simp] theorem deliver_returned (v : Word) : (deliver v s).returned = v :: s.returned := rfl
@[simp] theorem deliver_freeReads (v : Word) : (deliver v s).freeReads = s.freeReads := rfl

/-! ### `countFreeRead` -/

@[simp] theorem countFreeRead_x : (countFreeRead s).x = s.x := rfl
@[simp] theorem countFreeRead_y : (countFreeRead s).y = s.y := rfl
@[simp] theorem countFreeRead_ie : (countFreeRead s).ie = s.ie := rfl
@[simp] theorem countFreeRead_done : (countFreeRead s).done = s.done := rfl
@[simp] theorem countFreeRead_fault : (countFreeRead s).fault = s.fault := rfl
@[simp] theorem countFreeRead_dgv : (countFreeRead s).dgv = s.dgv := rfl
@[simp] theorem countFreeRead_errInfo : (countFreeRead s).errInfo = s.errInfo := rfl
@[simp] theorem countFreeRead_nonceLo : (countFreeRead s).nonceLo = s.nonceLo := rfl
@[simp] theorem countFreeRead_nonceHi : (countFreeRead s).nonceHi = s.nonceHi := rfl
@[simp] theorem countFreeRead_inp : (countFreeRead s).inp = s.inp := rfl
@[simp] theorem countFreeRead_sk : (countFreeRead s).sk = s.sk := rfl
@[simp] theorem countFreeRead_ak : (countFreeRead s).ak = s.ak := rfl
@[simp] theorem countFreeRead_dg : (countFreeRead s).dg = s.dg := rfl
@[simp] theorem countFreeRead_inW : (countFreeRead s).inW = s.inW := rfl
@[simp] theorem countFreeRead_skW : (countFreeRead s).skW = s.skW := rfl
@[simp] theorem countFreeRead_akW : (countFreeRead s).akW = s.akW := rfl
@[simp] theorem countFreeRead_scratch : (countFreeRead s).scratch = s.scratch := rfl
@[simp] theorem countFreeRead_spW : (countFreeRead s).spW = s.spW := rfl
@[simp] theorem countFreeRead_inflight : (countFreeRead s).inflight = s.inflight := rfl
@[simp] theorem countFreeRead_memWords : (countFreeRead s).memWords = s.memWords := rfl
@[simp] theorem countFreeRead_agenda : (countFreeRead s).agenda = s.agenda := rfl
@[simp] theorem countFreeRead_returned : (countFreeRead s).returned = s.returned := rfl
@[simp] theorem countFreeRead_freeReads : (countFreeRead s).freeReads = s.freeReads + 1 := rfl

/-! ### `clearedState` -/

@[simp] theorem clearedState_x (m : List Host.Cell) : (clearedState m s).x = Vector.replicate 7 0 := rfl
@[simp] theorem clearedState_y (m : List Host.Cell) : (clearedState m s).y = Vector.replicate 4 0 := rfl
@[simp] theorem clearedState_ie (m : List Host.Cell) : (clearedState m s).ie = false := rfl
@[simp] theorem clearedState_done (m : List Host.Cell) : (clearedState m s).done = false := rfl
@[simp] theorem clearedState_fault (m : List Host.Cell) : (clearedState m s).fault = none := rfl
@[simp] theorem clearedState_dgv (m : List Host.Cell) : (clearedState m s).dgv = false := rfl
@[simp] theorem clearedState_errInfo (m : List Host.Cell) : (clearedState m s).errInfo = 0 := rfl
@[simp] theorem clearedState_nonceLo (m : List Host.Cell) : (clearedState m s).nonceLo = 0 := rfl
@[simp] theorem clearedState_nonceHi (m : List Host.Cell) : (clearedState m s).nonceHi = 0 := rfl
@[simp] theorem clearedState_inp (m : List Host.Cell) : (clearedState m s).inp = Vector.replicate 14 0 := rfl
@[simp] theorem clearedState_sk (m : List Host.Cell) : (clearedState m s).sk = Vector.replicate 16 0 := rfl
@[simp] theorem clearedState_ak (m : List Host.Cell) : (clearedState m s).ak = Vector.replicate 2 0 := rfl
@[simp] theorem clearedState_dg (m : List Host.Cell) : (clearedState m s).dg = Vector.replicate 4 0 := rfl
@[simp] theorem clearedState_inW (m : List Host.Cell) : (clearedState m s).inW = Vector.replicate 14 false := rfl
@[simp] theorem clearedState_skW (m : List Host.Cell) : (clearedState m s).skW = Vector.replicate 16 false := rfl
@[simp] theorem clearedState_akW (m : List Host.Cell) : (clearedState m s).akW = Vector.replicate 2 false := rfl
@[simp] theorem clearedState_scratch (m : List Host.Cell) : (clearedState m s).scratch = m := rfl
@[simp] theorem clearedState_spW (m : List Host.Cell) : (clearedState m s).spW = [] := rfl
@[simp] theorem clearedState_inflight (m : List Host.Cell) : (clearedState m s).inflight = none := rfl
@[simp] theorem clearedState_memWords (m : List Host.Cell) : (clearedState m s).memWords = s.memWords := rfl
@[simp] theorem clearedState_agenda (m : List Host.Cell) : (clearedState m s).agenda = s.agenda := rfl
@[simp] theorem clearedState_returned (m : List Host.Cell) : (clearedState m s).returned = s.returned := rfl
@[simp] theorem clearedState_freeReads (m : List Host.Cell) : (clearedState m s).freeReads = s.freeReads := rfl

/-! ### `softReset` -/

@[simp] theorem softReset_x : (softReset s).x = Vector.replicate 7 0 := rfl
@[simp] theorem softReset_y : (softReset s).y = Vector.replicate 4 0 := rfl
@[simp] theorem softReset_ie : (softReset s).ie = false := rfl
@[simp] theorem softReset_done : (softReset s).done = false := rfl
@[simp] theorem softReset_fault : (softReset s).fault = none := rfl
@[simp] theorem softReset_dgv : (softReset s).dgv = false := rfl
@[simp] theorem softReset_errInfo : (softReset s).errInfo = 0 := rfl
@[simp] theorem softReset_nonceLo : (softReset s).nonceLo = 0 := rfl
@[simp] theorem softReset_nonceHi : (softReset s).nonceHi = 0 := rfl
@[simp] theorem softReset_inp : (softReset s).inp = Vector.replicate 14 0 := rfl
@[simp] theorem softReset_sk : (softReset s).sk = Vector.replicate 16 0 := rfl
@[simp] theorem softReset_ak : (softReset s).ak = Vector.replicate 2 0 := rfl
@[simp] theorem softReset_dg : (softReset s).dg = Vector.replicate 4 0 := rfl
@[simp] theorem softReset_inW : (softReset s).inW = Vector.replicate 14 false := rfl
@[simp] theorem softReset_skW : (softReset s).skW = Vector.replicate 16 false := rfl
@[simp] theorem softReset_akW : (softReset s).akW = Vector.replicate 2 false := rfl
@[simp] theorem softReset_scratch : (softReset s).scratch = s.scratch := rfl
@[simp] theorem softReset_spW : (softReset s).spW = [] := rfl
@[simp] theorem softReset_inflight : (softReset s).inflight = none := rfl
@[simp] theorem softReset_memWords : (softReset s).memWords = s.memWords := rfl
@[simp] theorem softReset_agenda : (softReset s).agenda = s.agenda := rfl
@[simp] theorem softReset_returned : (softReset s).returned = s.returned := rfl
@[simp] theorem softReset_freeReads : (softReset s).freeReads = s.freeReads := rfl

/-! ### `hardReset` -/

@[simp] theorem hardReset_x : (hardReset s).x = Vector.replicate 7 0 := rfl
@[simp] theorem hardReset_y : (hardReset s).y = Vector.replicate 4 0 := rfl
@[simp] theorem hardReset_ie : (hardReset s).ie = false := rfl
@[simp] theorem hardReset_done : (hardReset s).done = false := rfl
@[simp] theorem hardReset_fault : (hardReset s).fault = none := rfl
@[simp] theorem hardReset_dgv : (hardReset s).dgv = false := rfl
@[simp] theorem hardReset_errInfo : (hardReset s).errInfo = 0 := rfl
@[simp] theorem hardReset_nonceLo : (hardReset s).nonceLo = 0 := rfl
@[simp] theorem hardReset_nonceHi : (hardReset s).nonceHi = 0 := rfl
@[simp] theorem hardReset_inp : (hardReset s).inp = Vector.replicate 14 0 := rfl
@[simp] theorem hardReset_sk : (hardReset s).sk = Vector.replicate 16 0 := rfl
@[simp] theorem hardReset_ak : (hardReset s).ak = Vector.replicate 2 0 := rfl
@[simp] theorem hardReset_dg : (hardReset s).dg = Vector.replicate 4 0 := rfl
@[simp] theorem hardReset_inW : (hardReset s).inW = Vector.replicate 14 false := rfl
@[simp] theorem hardReset_skW : (hardReset s).skW = Vector.replicate 16 false := rfl
@[simp] theorem hardReset_akW : (hardReset s).akW = Vector.replicate 2 false := rfl
@[simp] theorem hardReset_scratch : (hardReset s).scratch = [] := rfl
@[simp] theorem hardReset_spW : (hardReset s).spW = [] := rfl
@[simp] theorem hardReset_inflight : (hardReset s).inflight = none := rfl
@[simp] theorem hardReset_memWords : (hardReset s).memWords = s.memWords := rfl
@[simp] theorem hardReset_agenda : (hardReset s).agenda = s.agenda := rfl
@[simp] theorem hardReset_returned : (hardReset s).returned = s.returned := rfl
@[simp] theorem hardReset_freeReads : (hardReset s).freeReads = s.freeReads := rfl

/-! ### `raise` -/

@[simp] theorem raise_x (f : FaultCode) (w : Word) : (raise f w s).x = s.x := by
  unfold raise; split <;> simp_all
@[simp] theorem raise_y (f : FaultCode) (w : Word) : (raise f w s).y = s.y := by
  unfold raise; split <;> simp_all
@[simp] theorem raise_ie (f : FaultCode) (w : Word) : (raise f w s).ie = s.ie := by
  unfold raise; split <;> simp_all
@[simp] theorem raise_done (f : FaultCode) (w : Word) : (raise f w s).done = s.done := by
  unfold raise; split <;> simp_all
@[simp] theorem raise_fault (f : FaultCode) (w : Word) : (raise f w s).fault = s.fault.or (some f) := by
  unfold raise; split <;> simp_all
@[simp] theorem raise_dgv (f : FaultCode) (w : Word) : (raise f w s).dgv = s.dgv := by
  unfold raise; split <;> simp_all
@[simp] theorem raise_nonceLo (f : FaultCode) (w : Word) : (raise f w s).nonceLo = s.nonceLo := by
  unfold raise; split <;> simp_all
@[simp] theorem raise_nonceHi (f : FaultCode) (w : Word) : (raise f w s).nonceHi = s.nonceHi := by
  unfold raise; split <;> simp_all
@[simp] theorem raise_inp (f : FaultCode) (w : Word) : (raise f w s).inp = s.inp := by
  unfold raise; split <;> simp_all
@[simp] theorem raise_sk (f : FaultCode) (w : Word) : (raise f w s).sk = s.sk := by
  unfold raise; split <;> simp_all
@[simp] theorem raise_ak (f : FaultCode) (w : Word) : (raise f w s).ak = s.ak := by
  unfold raise; split <;> simp_all
@[simp] theorem raise_dg (f : FaultCode) (w : Word) : (raise f w s).dg = s.dg := by
  unfold raise; split <;> simp_all
@[simp] theorem raise_inW (f : FaultCode) (w : Word) : (raise f w s).inW = s.inW := by
  unfold raise; split <;> simp_all
@[simp] theorem raise_skW (f : FaultCode) (w : Word) : (raise f w s).skW = s.skW := by
  unfold raise; split <;> simp_all
@[simp] theorem raise_akW (f : FaultCode) (w : Word) : (raise f w s).akW = s.akW := by
  unfold raise; split <;> simp_all
@[simp] theorem raise_scratch (f : FaultCode) (w : Word) : (raise f w s).scratch = s.scratch := by
  unfold raise; split <;> simp_all
@[simp] theorem raise_spW (f : FaultCode) (w : Word) : (raise f w s).spW = s.spW := by
  unfold raise; split <;> simp_all
@[simp] theorem raise_inflight (f : FaultCode) (w : Word) : (raise f w s).inflight = s.inflight := by
  unfold raise; split <;> simp_all
@[simp] theorem raise_memWords (f : FaultCode) (w : Word) : (raise f w s).memWords = s.memWords := by
  unfold raise; split <;> simp_all
@[simp] theorem raise_agenda (f : FaultCode) (w : Word) : (raise f w s).agenda = s.agenda := by
  unfold raise; split <;> simp_all
@[simp] theorem raise_returned (f : FaultCode) (w : Word) : (raise f w s).returned = s.returned := by
  unfold raise; split <;> simp_all
@[simp] theorem raise_freeReads (f : FaultCode) (w : Word) : (raise f w s).freeReads = s.freeReads := by
  unfold raise; split <;> simp_all

@[simp] theorem raise_errInfo (f : FaultCode) (w : Word) :
    (raise f w s).errInfo = if s.fault = none then w else s.errInfo := by
  unfold raise; split <;> simp_all

/-! ### `storeCsr`: what no register write touches -/

@[simp] theorem storeCsr_y (r : CsrReg) (v : Word) : (storeCsr r v s).y = s.y := by
  cases r <;> rfl
@[simp] theorem storeCsr_ie (r : CsrReg) (v : Word) : (storeCsr r v s).ie = s.ie := by
  cases r <;> rfl
@[simp] theorem storeCsr_done (r : CsrReg) (v : Word) : (storeCsr r v s).done = s.done := by
  cases r <;> rfl
@[simp] theorem storeCsr_fault (r : CsrReg) (v : Word) : (storeCsr r v s).fault = s.fault := by
  cases r <;> rfl
@[simp] theorem storeCsr_dgv (r : CsrReg) (v : Word) : (storeCsr r v s).dgv = s.dgv := by
  cases r <;> rfl
@[simp] theorem storeCsr_errInfo (r : CsrReg) (v : Word) : (storeCsr r v s).errInfo = s.errInfo := by
  cases r <;> rfl
@[simp] theorem storeCsr_dg (r : CsrReg) (v : Word) : (storeCsr r v s).dg = s.dg := by
  cases r <;> rfl
@[simp] theorem storeCsr_scratch (r : CsrReg) (v : Word) : (storeCsr r v s).scratch = s.scratch := by
  cases r <;> rfl
@[simp] theorem storeCsr_spW (r : CsrReg) (v : Word) : (storeCsr r v s).spW = s.spW := by
  cases r <;> rfl
@[simp] theorem storeCsr_inflight (r : CsrReg) (v : Word) : (storeCsr r v s).inflight = s.inflight := by
  cases r <;> rfl
@[simp] theorem storeCsr_memWords (r : CsrReg) (v : Word) : (storeCsr r v s).memWords = s.memWords := by
  cases r <;> rfl
@[simp] theorem storeCsr_agenda (r : CsrReg) (v : Word) : (storeCsr r v s).agenda = s.agenda := by
  cases r <;> rfl
@[simp] theorem storeCsr_returned (r : CsrReg) (v : Word) : (storeCsr r v s).returned = s.returned := by
  cases r <;> rfl
@[simp] theorem storeCsr_freeReads (r : CsrReg) (v : Word) : (storeCsr r v s).freeReads = s.freeReads := by
  cases r <;> rfl

end

end Sys2Proof.Machine
end

