-- ==== Sys2Proof/Laws/Ops.lean ====
section
/-!
SUPPORT. For each shared operation, once, everything it can do: the lemmas the proofs cite instead of
unfolding it.
-/

namespace Sys2Proof.Machine

/-! ### Recording, submission, completion -/

theorem busy_eq_false_iff (s : State) : busy s = false ↔ s.inflight = none := by simp [busy]

theorem busy_of_inflight {s : State} {i : Instr} (h : s.inflight = some i) : busy s = true := by
  simp [busy, h]

@[simp] theorem busy_accept (i : Instr) (s : State) : busy (accept i s) = true := rfl
@[simp] theorem busy_retire (s : State) : busy (retire s) = false := rfl
@[simp] theorem busy_raise (f : FaultCode) (w : Word) (s : State) :
    busy (raise f w s) = busy s := by simp [busy]
@[simp] theorem busy_deliver (v : Word) (s : State) : busy (deliver v s) = busy s := rfl
@[simp] theorem busy_softReset (s : State) : busy (softReset s) = false := rfl
@[simp] theorem busy_hardReset (s : State) : busy (hardReset s) = false := rfl
@[simp] theorem faulted_raise (f : FaultCode) (w : Word) (s : State) :
    faulted (raise f w s) = true := by simp [faulted]

/-- Recording a fault: the first one is recorded, a later one changes nothing (R131, R140). -/
theorem raise_of_none {s : State} (h : s.fault = none) (f : FaultCode) (w : Word) :
    raise f w s = { s with fault := some f, errInfo := w } := by simp [raise, h]

theorem raise_of_some {s : State} {g : FaultCode} (h : s.fault = some g) (f : FaultCode) (w : Word) :
    raise f w s = s := by simp [raise, h]

/-- Everything submission can do (R139). -/
theorem submit_cases (w : Word) (cmd : Option Instr) (check : Option FaultCode) (s : State) :
    (busy s = true ∧ submit w cmd check s = raise .busyAccess (csrInfo true cmdIndex) s) ∨
    (busy s = false ∧ faulted s = true ∧ submit w cmd check s = s) ∨
    (busy s = false ∧ faulted s = false ∧
      ((cmd = none ∧ submit w cmd check s = raise .illegalCmd (commandInfo w s) s) ∨
       (∃ i f, cmd = some i ∧ check = some f ∧ submit w cmd check s = raise f (commandInfo w s) s) ∨
       (∃ i, cmd = some i ∧ check = none ∧ submit w cmd check s = accept i s))) := by
  unfold submit
  cases hb : busy s
  · cases hf : faulted s
    · right; right
      refine ⟨rfl, rfl, ?_⟩
      cases cmd with
      | none => left; simp
      | some i => cases check <;> simp
    · right; left; simp
  · left; simp

/-! ### Submission to a block that is ready -/

theorem submit_illegal {s : State} (h : Ready s) (w : Word) (check : Option FaultCode) :
    submit w none check s = raise .illegalCmd (commandInfo w s) s := by
  simp [submit, busy, faulted, h.1, h.2]

theorem submit_fault {s : State} (h : Ready s) (w : Word) (i : Instr) (f : FaultCode) :
    submit w (some i) (some f) s = raise f (commandInfo w s) s := by
  simp [submit, busy, faulted, h.1, h.2]

theorem submit_accept {s : State} (h : Ready s) (w : Word) (i : Instr) :
    submit w (some i) none s = accept i s := by
  simp [submit, busy, faulted, h.1, h.2]

/-- What a command's own check can give (60_exceptions.md R134 to R136), and of which commands. -/
theorem commandCheck_cases (i : Instr) (s : State) :
    commandCheck i s = none ∨
    (commandCheck i s = some .cfgInvalid ∧
      ((i = .expand ∧ ¬ (inv s = true ∧ skv s = true)) ∨
       (i = .mixpass ∧ ¬ (akv s = true ∧ spv s = true)) ∨
       (i = .finalize ∧ ¬ spv s = true) ∨
       (i = .hash ∧ ¬ (inv s = true ∧ skv s = true ∧ akv s = true)))) ∨
    (commandCheck i s = some .divZero ∧
      ((i = .div128 ∧ x2 s = 0#64) ∨ (i = .udiv ∧ x2 s = 0#64) ∨
       (i = .divw ∧ x2 s = 0#64 ∧ x3 s = 0#64))) ∨
    (commandCheck i s = some .divOverflow ∧ i = .div128 ∧ x2 s ≠ 0#64 ∧ x2 s ≤ x0 s) := by
  cases i
  case div128 =>
    by_cases h : x2 s = 0#64
    · simp [commandCheck, h]
    · by_cases h' : x2 s ≤ x0 s <;> simp [commandCheck, h, h']
  case udiv => by_cases h : x2 s = 0#64 <;> simp [commandCheck, h]
  case divw => by_cases h : x2 s = 0#64 ∧ x3 s = 0#64 <;> simp [commandCheck, h]
  case expand => cases h : inv s <;> cases h' : skv s <;> simp [commandCheck, h, h']
  case mixpass => cases h : akv s <;> cases h' : spv s <;> simp [commandCheck, h, h']
  case finalize => cases h : spv s <;> simp [commandCheck, h]
  case hash =>
    cases h : inv s <;> cases h' : skv s <;> cases h'' : akv s <;> simp [commandCheck, h, h', h'']
  all_goals exact .inl rfl

/-- Everything a command's meaning can do: the completion step, a stop in a state no run reaches, or
the submission (log 9). -/
theorem runCommand_cases (i : Instr) (effect : State → State) (s : State) :
    (s.inflight = some i ∧ commandCheck i s = none ∧
      runCommand i effect s = .next (retire (effect s))) ∨
    (∃ f, s.inflight = some i ∧ commandCheck i s = some f ∧
      runCommand i effect s = .fault (.brokenContract f)) ∨
    (s.inflight ≠ some i ∧
      runCommand i effect s = .next (submit (encode i) (some i) (commandCheck i s) s)) := by
  unfold runCommand
  by_cases h : s.inflight = some i
  · cases hc : commandCheck i s with
    | none => left; simp [h]
    | some f => right; left; exact ⟨f, by simp [h]⟩
  · right; right
    exact ⟨h, by simp [h]⟩

theorem runCommand_complete {i : Instr} {s : State} (effect : State → State)
    (h : s.inflight = some i) (hc : commandCheck i s = none) :
    runCommand i effect s = .next (retire (effect s)) := by simp [runCommand, h, hc]

theorem runCommand_submit {i : Instr} {s : State} (effect : State → State)
    (h : s.inflight ≠ some i) :
    runCommand i effect s = .next (submit (encode i) (some i) (commandCheck i s) s) := by
  simp [runCommand, h]

/-! ### Resets and control -/

/-- Everything a CTRL write can do (10_state.md R23). -/
theorem writeCtrl_cases (v : Word) (s : State) :
    (v.getLsbD 0 = true ∧ writeCtrl v s = softReset s) ∨
    (v.getLsbD 0 = false ∧
      writeCtrl v s = { s with ie := v.getLsbD 1, done := s.done && !v.getLsbD 2 }) := by
  unfold writeCtrl
  cases h : v.getLsbD 0
  · right; simp
  · left; simp

/-! ### Host accesses -/

/-- Everything a CSR read can do (20_memory.md R41). -/
theorem csrRead_cases (idx : BitVec 7) (s : State) :
    (busy s = true ∧ readableWhileBusy (csrAt idx) = false ∧
      csrRead idx s = deliver 0 (raise .busyAccess (csrInfo false idx) s)) ∨
    ((busy s = false ∨ readableWhileBusy (csrAt idx) = true) ∧
      csrRead idx s = deliver (csrValue (csrAt idx) s) s) := by
  unfold csrRead
  cases hb : busy s <;> cases hr : readableWhileBusy (csrAt idx) <;> simp

/-- Everything a CSR write can do (20_memory.md R42). -/
theorem csrWrite_cases (idx : BitVec 7) (v : Word) (s : State) :
    (busy s = true ∧ csrAt idx ≠ .ctrl ∧
      csrWrite idx v s = .next (raise .busyAccess (csrInfo true idx) s)) ∨
    (busy s = false ∧ csrAt idx = .cmd ∧ csrWrite idx v s = writeCmd v s) ∨
    (csrAt idx = .ctrl ∧ csrWrite idx v s = .next (writeCtrl v s)) ∨
    (busy s = false ∧ csrAt idx ≠ .cmd ∧ csrAt idx ≠ .ctrl ∧
      csrWrite idx v s = .next (storeCsr (csrAt idx) v s)) := by
  unfold csrWrite
  cases hb : busy s <;> cases hr : csrAt idx <;> simp

/-- Everything a scratch read can do (20_memory.md R43). -/
theorem spmRead_cases (k : BitVec 32) (s : State) :
    (busy s = true ∧ spmRead k s = deliver 0 (raise .busyAccess (spmInfo false k) s)) ∨
    (busy s = false ∧ s.memWords ≤ k.toNat ∧
      spmRead k s = deliver 0 (raise .spmRange (spmInfo false k) s)) ∨
    (busy s = false ∧ k.toNat < s.memWords ∧ indexIn s.spW k.toNat = true ∧
      spmRead k s = deliver (scratchWord s k.toNat) s) ∨
    (busy s = false ∧ k.toNat < s.memWords ∧ indexIn s.spW k.toNat = false ∧
      spmRead k s = deliver (Config.unwrittenRead s.freeReads) (countFreeRead s)) := by
  unfold spmRead
  cases hb : busy s
  · by_cases hk : s.memWords ≤ k.toNat
    · simp [hk]
    · have hk2 : k.toNat < s.memWords := by omega
      cases hw : indexIn s.spW k.toNat <;> simp [hk, hk2]
  · simp

/-- Everything a scratch write can do (20_memory.md R44). -/
theorem spmWrite_cases (k : BitVec 32) (v : Word) (s : State) :
    (busy s = true ∧ spmWrite k v s = raise .busyAccess (spmInfo true k) s) ∨
    (busy s = false ∧ s.memWords ≤ k.toNat ∧
      spmWrite k v s = raise .spmRange (spmInfo true k) s) ∨
    (busy s = false ∧ k.toNat < s.memWords ∧ spmWrite k v s = writeScratchWord k.toNat v s) := by
  unfold spmWrite
  cases hb : busy s
  · by_cases hk : s.memWords ≤ k.toNat
    · simp [hk]
    · have hk2 : k.toNat < s.memWords := by omega
      simp [hk, hk2]
  · simp

@[simp] theorem csrAt_cmdIndex : csrAt cmdIndex = .cmd := by decide

/-! ### Scratch words -/

theorem scratchBytes_length (s : State) (a n : Nat) : (scratchBytes s a n).length = n := by
  simp [scratchBytes]

theorem scratchBytes_ofBytes {s : State} {bs : List Byte} {a n : Nat}
    (h : s.scratch = Memory.ofBytes 0 bs) (hn : a + n ≤ bs.length) :
    scratchBytes s a n = slice bs a n := by
  apply List.ext_getElem?
  intro i
  by_cases hi : i < n
  · rw [getElem?_slice _ _ _ _ hi]
    have hl : a + i < bs.length := by omega
    simp [scratchBytes, scratchByte, h, Memory.read_ofBytes, hi, hl]
  · rw [List.getElem?_eq_none (by simp [scratchBytes]; omega),
      List.getElem?_eq_none (by simp [slice]; omega)]

theorem scratchWord_ofWords {s : State} {ws : List Word} {k : Nat}
    (h : s.scratch = Memory.ofBytes 0 (wordsToBytes ws)) (hk : k < ws.length) :
    scratchWord s k = ws[k] := by
  rw [scratchWord, scratchBytes_ofBytes h (by simp; omega), slice_wordsToBytes ws k hk,
    unle64_le64]

theorem scratchWords_ofWords {s : State} {ws : List Word}
    (h : s.scratch = Memory.ofBytes 0 (wordsToBytes ws)) (hl : ws.length = s.memWords) :
    scratchWords s = ws := by
  apply List.ext_getElem (by simp [scratchWords, hl])
  intro k h1 h2
  simp [scratchWords, scratchWord_ofWords h h2]

end Sys2Proof.Machine
end

