-- ==== Sys2Proof/Laws/Exec.lean ====
section
/-!
SUPPORT. What every command does, said once: `exec` is `runCommand` on the command's effect, an effect
touches results, scratch or digest only, and so a step does too.
-/

namespace Sys2Proof.Machine

/-- The effect of each command. -/
def effectOf (i : Instr) (s : State) : State :=
  match i with
  | .nop => nopEffect s
  | .rotl => rotlEffect s
  | .rotr => rotrEffect s
  | .div128 => div128Effect s
  | .udiv => udivEffect s
  | .isqrt => isqrtEffect s
  | .mulhi => mulhiEffect s
  | .mulhi128 => mulhi128Effect s
  | .divw => divwEffect s
  | .mixop0 => mixop0Effect s
  | .mixop1 => mixop1Effect s
  | .mixop2 => mixop2Effect s
  | .mixop3 => mixop3Effect s
  | .mixop4 => mixop4Effect s
  | .mixop5 => mixop5Effect s
  | .mixop6 => mixop6Effect s
  | .mixop7 => mixop7Effect s
  | .mixop8 => mixop8Effect s
  | .mixop9 => mixop9Effect s
  | .mixop10 => mixop10Effect s
  | .mixop11 => mixop11Effect s
  | .mixop12 => mixop12Effect s
  | .mixop13 => mixop13Effect s
  | .mixop14 => mixop14Effect s
  | .mixop15 => mixop15Effect s
  | .mixauto => mixautoEffect s
  | .expand => expandEffect s
  | .mixpass => mixpassEffect s
  | .finalize => finalizeEffect s
  | .hash => hashEffect s

theorem exec_eq_runCommand (i : Instr) (s : State) : exec i s = runCommand i (effectOf i) s := by
  cases i <;> rfl

theorem exec_complete {i : Instr} {s : State} (h : s.inflight = some i)
    (hc : commandCheck i s = none) : exec i s = .next (retire (effectOf i s)) := by
  rw [exec_eq_runCommand, runCommand_complete _ h hc]

theorem exec_submit {i : Instr} {s : State} (h : s.inflight ≠ some i) :
    exec i s = .next (submit (encode i) (some i) (commandCheck i s) s) := by
  rw [exec_eq_runCommand, runCommand_submit _ h]

/-- A command that answers a next state while it is in flight has completed. -/
theorem exec_next_inflight {i : Instr} {s t : State} (h : s.inflight = some i)
    (ht : exec i s = .next t) : commandCheck i s = none ∧ t = retire (effectOf i s) := by
  rw [exec_eq_runCommand] at ht
  rcases runCommand_cases i (effectOf i) s with ⟨_, hc, e⟩ | ⟨f, _, _, e⟩ | ⟨hn, _⟩
  · rw [e] at ht; injection ht with ht; exact ⟨hc, ht.symm⟩
  · rw [e] at ht; cases ht
  · exact absurd h hn

/-! ### What an effect leaves alone -/

section
variable (i : Instr) (s : State)

@[simp] theorem effectOf_x : (effectOf i s).x = s.x := by cases i <;> rfl
@[simp] theorem effectOf_ie : (effectOf i s).ie = s.ie := by cases i <;> rfl
@[simp] theorem effectOf_done : (effectOf i s).done = s.done := by cases i <;> rfl
@[simp] theorem effectOf_fault : (effectOf i s).fault = s.fault := by cases i <;> rfl
@[simp] theorem effectOf_errInfo : (effectOf i s).errInfo = s.errInfo := by cases i <;> rfl
@[simp] theorem effectOf_nonceLo : (effectOf i s).nonceLo = s.nonceLo := by cases i <;> rfl
@[simp] theorem effectOf_nonceHi : (effectOf i s).nonceHi = s.nonceHi := by cases i <;> rfl
@[simp] theorem effectOf_inp : (effectOf i s).inp = s.inp := by cases i <;> rfl
@[simp] theorem effectOf_sk : (effectOf i s).sk = s.sk := by cases i <;> rfl
@[simp] theorem effectOf_ak : (effectOf i s).ak = s.ak := by cases i <;> rfl
@[simp] theorem effectOf_inW : (effectOf i s).inW = s.inW := by cases i <;> rfl
@[simp] theorem effectOf_skW : (effectOf i s).skW = s.skW := by cases i <;> rfl
@[simp] theorem effectOf_akW : (effectOf i s).akW = s.akW := by cases i <;> rfl
@[simp] theorem effectOf_inflight : (effectOf i s).inflight = s.inflight := by cases i <;> rfl
@[simp] theorem effectOf_memWords : (effectOf i s).memWords = s.memWords := by cases i <;> rfl
@[simp] theorem effectOf_agenda : (effectOf i s).agenda = s.agenda := by cases i <;> rfl
@[simp] theorem effectOf_returned : (effectOf i s).returned = s.returned := by cases i <;> rfl
@[simp] theorem effectOf_freeReads : (effectOf i s).freeReads = s.freeReads := by cases i <;> rfl

theorem effectOf_y (h : writesResults i = false) : (effectOf i s).y = s.y := by
  cases i <;> first | rfl | cases h

theorem effectOf_scratch (h : writesScratch i = false) :
    (effectOf i s).scratch = s.scratch ∧ (effectOf i s).spW = s.spW := by
  cases i <;> first | exact ⟨rfl, rfl⟩ | cases h

theorem effectOf_dg (h : writesDigest i = false) :
    (effectOf i s).dg = s.dg ∧ (effectOf i s).dgv = s.dgv := by
  cases i <;> first | exact ⟨rfl, rfl⟩ | cases h

end

/-- The checks of a command depend on the operands, the written bits and the size only. -/
theorem commandCheck_congr {s t : State} (hx : t.x = s.x) (hi : t.inW = s.inW) (hs : t.skW = s.skW)
    (ha : t.akW = s.akW) (hp : t.spW = s.spW) (hm : t.memWords = s.memWords) (i : Instr) :
    commandCheck i t = commandCheck i s := by
  have h0 : x0 t = x0 s := by simp only [x0, hx]
  have h2 : x2 t = x2 s := by simp only [x2, hx]
  have h3 : x3 t = x3 s := by simp only [x3, hx]
  have h4 : inv t = inv s := by simp only [inv, hi]
  have h5 : skv t = skv s := by simp only [skv, hs]
  have h6 : akv t = akv s := by simp only [akv, ha]
  have h7 : spv t = spv s := by simp only [spv, hp, hm]
  unfold commandCheck
  simp only [h0, h2, h3, h4, h5, h6, h7]

end Sys2Proof.Machine
end

