-- ==== Sys2Proof/Laws/PerInstr.lean ====
section
/-!
SUPPORT. The family EncodingLegal: every command's encoding passes the three checks of
30_encoding.md R55.
-/

namespace Sys2Proof.Laws.EncodingLegal

/-- The command's fields are a legal command word's. -/
def Statement (i : Instr) : Prop := (encodeFields i).wf = true

theorem nop : Statement .nop := rfl
theorem rotl : Statement .rotl := rfl
theorem rotr : Statement .rotr := rfl
theorem div128 : Statement .div128 := rfl
theorem udiv : Statement .udiv := rfl
theorem isqrt : Statement .isqrt := rfl
theorem mulhi : Statement .mulhi := rfl
theorem mulhi128 : Statement .mulhi128 := rfl
theorem divw : Statement .divw := rfl
theorem mixop0 : Statement .mixop0 := rfl
theorem mixop1 : Statement .mixop1 := rfl
theorem mixop2 : Statement .mixop2 := rfl
theorem mixop3 : Statement .mixop3 := rfl
theorem mixop4 : Statement .mixop4 := rfl
theorem mixop5 : Statement .mixop5 := rfl
theorem mixop6 : Statement .mixop6 := rfl
theorem mixop7 : Statement .mixop7 := rfl
theorem mixop8 : Statement .mixop8 := rfl
theorem mixop9 : Statement .mixop9 := rfl
theorem mixop10 : Statement .mixop10 := rfl
theorem mixop11 : Statement .mixop11 := rfl
theorem mixop12 : Statement .mixop12 := rfl
theorem mixop13 : Statement .mixop13 := rfl
theorem mixop14 : Statement .mixop14 := rfl
theorem mixop15 : Statement .mixop15 := rfl
theorem mixauto : Statement .mixauto := rfl
theorem expand : Statement .expand := rfl
theorem mixpass : Statement .mixpass := rfl
theorem finalize : Statement .finalize := rfl
theorem hash : Statement .hash := rfl

end Sys2Proof.Laws.EncodingLegal
end

