-- ==== Sys2Proof/Tests/Slice0.lean ====
section
/-!
SUPPORT. Tests: the checks of WellFormed, decoding of every command's word, one step on the vectors of
95_test_vectors.md, and for every obligation with hypotheses a state that meets them.
-/

namespace Sys2Proof.Tests

-- one kernel evaluation at a time: side by side they need a thread, and its stack, each
set_option Elab.async false

open Sys2Proof.Machine

/-! ### WellFormed: each check passes a good term and refuses an ill-formed one (R53 to R55, R5) -/

theorem test_wf_accepts : (CmdFields.wf ⟨0x10, 15, 0⟩) = true := by decide
theorem test_wf_refuses_res : (CmdFields.resZero ⟨0x00, 0, 1⟩) = false ∧
    (CmdFields.wf ⟨0x00, 0, 1⟩) = false := by decide
theorem test_wf_refuses_opc : (CmdFields.opcDefined ⟨0x09, 0, 0⟩) = false ∧
    (CmdFields.wf ⟨0x09, 0, 0⟩) = false := by decide
theorem test_wf_refuses_sel : (CmdFields.selAllowed ⟨0x03, 1, 0⟩) = false ∧
    (CmdFields.wf ⟨0x03, 1, 0⟩) = false := by decide
theorem test_size_accepts : Config.validSize 6 = true ∧ Config.validSize (2 ^ 32 - 2) = true := by
  decide
theorem test_size_refuses_odd : Config.sizeEven 7 = false ∧ Config.validSize 7 = false := by decide
theorem test_size_refuses_small : Config.sizeAtLeast 4 = false ∧ Config.validSize 4 = false := by
  decide
theorem test_size_refuses_large : Config.sizeBelow (2 ^ 32) = false ∧
    Config.validSize (2 ^ 32) = false := by decide

/-! ### Decoding: every command word of R54, written out -/

theorem test_decode_control : decode 0x0000000000000000 = some .nop := by decide
theorem test_decode_wide :
    decode 0x0000000000000001 = some .rotl ∧ decode 0x0000000000000002 = some .rotr ∧
    decode 0x0000000000000003 = some .div128 ∧ decode 0x0000000000000004 = some .udiv ∧
    decode 0x0000000000000005 = some .isqrt ∧ decode 0x0000000000000006 = some .mulhi ∧
    decode 0x0000000000000007 = some .mulhi128 ∧ decode 0x0000000000000008 = some .divw := by decide
theorem test_decode_mixop_low :
    decode 0x0000000000000010 = some .mixop0 ∧ decode 0x0000000000000110 = some .mixop1 ∧
    decode 0x0000000000000210 = some .mixop2 ∧ decode 0x0000000000000310 = some .mixop3 ∧
    decode 0x0000000000000410 = some .mixop4 ∧ decode 0x0000000000000510 = some .mixop5 ∧
    decode 0x0000000000000610 = some .mixop6 ∧ decode 0x0000000000000710 = some .mixop7 := by decide
theorem test_decode_mixop_high :
    decode 0x0000000000000810 = some .mixop8 ∧ decode 0x0000000000000910 = some .mixop9 ∧
    decode 0x0000000000000A10 = some .mixop10 ∧ decode 0x0000000000000B10 = some .mixop11 ∧
    decode 0x0000000000000C10 = some .mixop12 ∧ decode 0x0000000000000D10 = some .mixop13 ∧
    decode 0x0000000000000E10 = some .mixop14 ∧ decode 0x0000000000000F10 = some .mixop15 := by decide
theorem test_decode_mixauto : decode 0x0000000000000011 = some .mixauto := by decide
theorem test_decode_pipeline :
    decode 0x0000000000000020 = some .expand ∧ decode 0x0000000000000021 = some .mixpass ∧
    decode 0x0000000000000022 = some .finalize ∧ decode 0x0000000000000023 = some .hash := by decide
theorem test_decode_illegal :
    decode 0x0000000000000103 = none ∧ decode 0x000000000000000F = none ∧
    decode 0x0000000000000012 = none ∧ decode 0x0000000000000024 = none ∧
    decode 0x00000000000000FF = none ∧ decode 0x0000000000001000 = none ∧
    decode 0x8000000000000010 = none ∧ decode 0x0000000000000111 = none := by decide
theorem test_table_word : decodeTableWord 64 0xF10 = some .mixop15 ∧
    decodeTableWord 16 0x310 = some .mixop3 ∧ decodeTableWord 16 0x103 = none := by decide

/-! ### One completion step, on the vectors of 95_test_vectors.md -/

/-- An idle block with `M = 8`. -/
def idle : State := State.resetOf 8

/-- A block with `M = 8`, the operands given and the command given in flight. -/
def running (i : Instr) (x : Vector Word 7) : State := { idle with x := x, inflight := some i }

/-- What a step leaves in Y, where it answers a next state and the command has ended. -/
def resultOf (o : Host.Outcome State Fault Refusal) : Option (List Word) :=
  match o with
  | .next s => if s.inflight = none && s.done then some s.y.toList else none
  | .fault _ => none
  | .refused _ => none

/-- The completion step of a command on operands: Y after it. -/
def run1 (i : Instr) (x : Vector Word 7) : Option (List Word) := resultOf (exec i (running i x))

/-- The operands `E` of V-MX-1. -/
def opE : Vector Word 7 :=
  #v[0x0123456789ABCDEF, 0xFEDCBA9876543210, 0x0F1E2D3C4B5A6978, 0x8899AABBCCDDEEFF, 5, 2, 7]

/-- `2^64 - 1`. -/
def maxW : Word := 0xFFFFFFFFFFFFFFFF

-- V-CSR-3
theorem test_nop : run1 .nop opE = some [0, 0, 0, 0] := by decide +kernel
-- V-WA-1
theorem test_rotl_65 : run1 .rotl #v[0x0123456789ABCDEF, 65, 0, 0, 0, 0, 0] =
    some [0x02468ACF13579BDE, 0, 0, 0] := by decide +kernel
theorem test_rotl_128 : run1 .rotl #v[0x0123456789ABCDEF, 128, 0, 0, 0, 0, 0] =
    some [0x0123456789ABCDEF, 0, 0, 0] := by decide +kernel
theorem test_rotr_1 : run1 .rotr #v[0x0123456789ABCDEF, 1, 0, 0, 0, 0, 0] =
    some [0x8091A2B3C4D5E6F7, 0, 0, 0] := by decide +kernel
theorem test_rotr_large : run1 .rotr #v[0x0123456789ABCDEF, 4294967295, 0, 0, 0, 0, 0] =
    some [0x02468ACF13579BDE, 0, 0, 0] := by decide +kernel
-- V-WA-2
theorem test_isqrt_max : run1 .isqrt #v[maxW, 0, 0, 0, 0, 0, 0] =
    some [0xFFFFFFFF, 0, 0x1FFFFFFFE, 0] := by decide +kernel
theorem test_isqrt_corners :
    [0, 1, 2, 3, 4, 15, 16, 24, 25, 999999, 0x4000000000000000, 0xFFFFFFFE00000001,
      0xFEDCBA9876543210].map integerSqrt =
    [0, 1, 1, 1, 2, 3, 4, 4, 5, 999, 0x80000000, 0xFFFFFFFF, 0xFF6E33C7] := by decide +kernel
-- V-WA-3
theorem test_div128 : run1 .div128 #v[2, 5, 3, 0, 0, 0, 0] =
    some [0xAAAAAAAAAAAAAAAC, 0, 1, 0] := by decide +kernel
theorem test_div128_largest : run1 .div128 #v[maxW - 1, maxW, maxW, 0, 0, 0, 0] =
    some [maxW, 0, 0xFFFFFFFFFFFFFFFE, 0] := by decide +kernel
-- V-WA-4
theorem test_udiv : run1 .udiv #v[0x0123456789ABCDEF, 0xFEDCBA9876543210, 0x100000000, 0, 0, 0, 0] =
    some [0x89ABCDEFFEDCBA98, 0x01234567, 0x76543210, 0] := by decide +kernel
theorem test_udiv_wide : run1 .udiv #v[maxW, maxW, maxW, 0, 0, 0, 0] = some [1, 1, 0, 0] := by
  decide +kernel
-- V-WA-5
theorem test_mulhi : run1 .mulhi #v[1, 0x8000000000000000, 4, 0, 0, 0, 0] = some [6, 0, 0, 0] := by
  decide +kernel
theorem test_mulhi_wraps : run1 .mulhi #v[maxW, maxW, maxW, 0, 0, 0, 0] = some [maxW, 1, 0, 0] := by
  decide +kernel
theorem test_mulhi128 :
    run1 .mulhi128 #v[0x0123456789ABCDEF, 0xFEDCBA9876543210, 0x1111111111111111,
      0x2222222222222222, 0, 0, 0] =
    some [0x10D6CFFC5BEEB4AD, 0xDE04B3EBABF4C620, 0, 0] := by decide +kernel
theorem test_mulhi128_wraps : run1 .mulhi128 #v[0x8000000000000000, 0, 0, 4, 0, 0, 0] =
    some [0, 0, 0, 0] := by decide +kernel
-- V-WA-6
theorem test_divw : run1 .divw #v[1, 0, 0, 3, 0, 0, 0] = some [0x5555555555555555, 0, 1, 0] := by
  decide +kernel
theorem test_divw_high : run1 .divw #v[5, 0, 7, 0, 0, 0, 0] = some [0, 0, 0, 5] := by decide +kernel
-- V-MX-1
theorem test_mixop0 : run1 .mixop0 opE = some [0x7593A84EEC0A31D7, 0, 0, 0] := by decide +kernel
theorem test_mixop1 : run1 .mixop1 opE = some [0xA4C3791F3D5AE086, 1, 0, 0] := by decide +kernel
theorem test_mixop2 : run1 .mixop2 opE = some [0xF0E1D2C3B4A59687, 2, 0, 0] := by decide +kernel
theorem test_mixop3 : run1 .mixop3 opE = some [0xF0E1D2C3B4A59688, 3, 0, 0] := by decide +kernel
theorem test_mixop4 : run1 .mixop4 opE = some [0xCC01D5D07A5BFDE8, 4, 0, 0] := by decide +kernel
theorem test_mixop5 : run1 .mixop5 opE = some [0x0CD7A26D3802CD99, 5, 0, 0] := by decide +kernel
theorem test_mixop6 : run1 .mixop6 opE = some [0x1164B80B5EB20557, 6, 0, 0] := by decide +kernel
theorem test_mixop7 : run1 .mixop7 opE = some [0x9BD0156BD34BD56F, 7, 0, 0] := by decide +kernel
theorem test_mixop8 : run1 .mixop8 opE = some [0x5511BD57E159C118, 8, 0, 0] := by decide +kernel
theorem test_mixop9 : run1 .mixop9 opE = some [0x5015F95E64E88080, 9, 0, 0] := by decide +kernel
theorem test_mixop10 : run1 .mixop10 opE = some [0x05DCDCDCDCDCDCDE, 10, 0, 0] := by decide +kernel
theorem test_mixop11 : run1 .mixop11 opE = some [0x0053A6FA4DA0F455, 11, 0, 0] := by decide +kernel
theorem test_mixop12 : run1 .mixop12 opE = some [0x0F2F744B6BB087A7, 12, 0, 0] := by decide +kernel
theorem test_mixop13 : run1 .mixop13 opE = some [0x0000000000000010, 13, 0, 0] := by decide +kernel
theorem test_mixop14 : run1 .mixop14 opE = some [0x9ABE036AF4A06E5E, 14, 0, 0] := by decide +kernel
theorem test_mixop15 : run1 .mixop15 opE = some [0x433EAE1A0B099E51, 15, 0, 0] := by decide +kernel
theorem test_mixauto : run1 .mixauto opE =
    some [0x9ABE036AF4A06E5E, 14, 0x244F53A270FB0142, 0] := by decide +kernel
-- V-MX-2
theorem test_mixop0_rotate_64 : run1 .mixop0 ((opE.set 5 8).set 6 8) =
    some [0xF1C297A43D0E5B68, 0, 0, 0] := by decide +kernel
theorem test_mixop10_zero_c : run1 .mixop10 (opE.set 2 0) = some [0, 10, 0, 0] := by decide +kernel
theorem test_mixop11_guard : run1 .mixop11 ((opE.set 3 maxW).set 4 0) =
    some [0x0F1E2D3C4B5A6978, 11, 0, 0] := by decide +kernel
theorem test_mixop12_zero_b : run1 .mixop12 (opE.set 1 0) =
    some [0x0048D159E26AF37B, 12, 0, 0] := by decide +kernel
theorem test_mixop13_guard : run1 .mixop13 ((opE.set 0 maxW).set 3 0) =
    some [0x0123456789ABCDEF, 13, 0, 0] := by decide +kernel
theorem test_mixop14_zero_b : run1 .mixop14 (opE.set 1 0) =
    some [0x00113366AB0066DE, 14, 0, 0] := by decide +kernel

/-! ### The AES round and the stages (V-AES-1, V-MIX-1, V-MIX-2, V-EXP-2) -/

/-- The bytes of a numeral, the first byte in the highest place. -/
def bytesOf (n len : Nat) : List Byte :=
  (List.range len).map fun k => BitVec.ofNat 8 (n >>> (8 * (len - 1 - k)))

theorem test_aes_fips : aesRound (bytesOf 0x193de3bea0f4e22b9ac68d2ae9f84808 16)
    (bytesOf 0xa0fafe1788542cb123a339392a6c7605 16) =
    bytesOf 0xa49c7ff2689f352b6b5bea43026a5049 16 := by decide +kernel

/-- The scratch words of V-MIX-1. -/
def sp8 : List Word :=
  [0x0101010101010101, 0x0202020202020202, 0x0303030303030303, 0x0404040404040404,
    0x0505050505050505, 0x0606060606060606, 0x0707070707070707, 0x0808080808080808]

/-- The key of V-MIX-1. -/
def key16 : List Byte := bytesOf 0x000102030405060708090a0b0c0d0e0f 16

theorem test_stage3_8 : stage3 8 sp8 key16 =
    [0x2208A7F0C2BB10EE, 0x86FC9890040A508C, 0xEE6CE2770B4CB8DB, 0x8D2AECE2AF6EE001,
      0xFAE801DF729C05EF, 0x2B4F5F50FE7DE94E, 0x4780E1F76B9084E7, 0x5878E9083B7C2E8E] := by
  decide +kernel
theorem test_stage3_6 :
    stage3 6 [0x1111111111111111, 0x2222222222222222, 0x3333333333333333, 0x4444444444444444,
      0x5555555555555555, 0x6666666666666666] (List.replicate 16 0) =
    [0x18816E913D4C23A5, 0xB31B0411EC3EEC8C, 0xAEAE4DA5EB6508D1, 0xB7F07001343DBC32,
      0xDE66F14E5B91C648, 0x4787A3E5003120B4] := by decide +kernel
/-- A toy hash: 32 times the length of its input. -/
def toyHash (s : List Byte) : Vector Byte 32 := Vector.replicate 32 (BitVec.ofNat 8 s.length)

/-- A toy keystream: byte `n` is the key's first byte plus the nonce's byte `n`. -/
def toyChaCha (key nonce : List Byte) (n : Nat) : Vector Byte n :=
  Vector.ofFn fun k => byteAt key 0 + byteAt nonce k

-- V-EXP-2, by hand: every chained digest is of 64 bytes, so each of the four 12-byte segments is the
-- one before plus 0x40, and segment borders lie inside words 1 and 4
theorem test_expand_layout :
    stage1 toyHash toyChaCha 6 (List.replicate 112 0) (List.replicate 128 0) (List.replicate 12 0) =
    [0x4040404040404040, 0x8080808040404040, 0x8080808080808080, 0xC0C0C0C0C0C0C0C0,
      0x00000000C0C0C0C0, 0x0000000000000000] := by decide +kernel

-- R26 and R27: IN9 holds the nonce in its upper half; sub-key 1 starts at SK4
theorem test_input_block : slice (inputBlock { idle with
    inp := idle.inp.set 9 0x1122334400000000 }) 76 4 = [0x44, 0x33, 0x22, 0x11] := by decide +kernel
theorem test_sub_key : (subKey (keyMaterial { idle with sk := idle.sk.set 4 0x01 }) 1).take 2 =
    [0x01, 0x00] := by decide +kernel

/-! ### Interface vectors (V-CSR, P3's hazard, P5) -/

/-- A state's STATUS and ERRINFO, and what the host has read, after the events given. -/
def view (s : State) (es : List Event) : Option (Word × Word × List Word) :=
  match Host.Core.run Sys2Proof.core es.length { s with agenda := es } with
  | .next t => some (status t, t.errInfo, t.returned)
  | .fault _ => none
  | .refused _ => none

-- V-CSR-2
theorem test_caps : caps idle = 0x0000020300000008 := by decide +kernel
-- V-CSR-4, from V-CSR-3
theorem test_clear_done : view { idle with done := true } (hostProgram [.clrdone true, .csrr 0x03]) =
    some (0, 0, [2]) := by decide +kernel
-- V-CSR-5
theorem test_nonce_hi : view idle (hostProgram [.csrw 0x06 0xAABBCCDD11223344, .csrr 0x06]) =
    some (0, 0, [0x0000000011223344]) := by decide +kernel
-- V-CSR-6
theorem test_illegal_wins : view idle (hostProgram [.csrw 0x02 0x103]) =
    some (0x14, 0x103, []) := by decide +kernel
-- V-CSR-7, V-CSR-12
theorem test_div_zero : view idle (hostProgram [.command .div128, .command .rotl]) =
    some (0x34, 0x003, []) := by decide +kernel
-- V-CSR-8
theorem test_cfg_invalid : view idle (hostProgram [.command .expand]) = some (0x24, 0x020, []) := by
  decide +kernel
-- V-CSR-9
theorem test_cfg_invalid_aux : view idle (hostProgram [.ldkey 1 2, .command .hash]) =
    some (0x424, 0x40023, []) := by decide +kernel
-- V-CSR-10
theorem test_spm_range : view idle (hostProgram [.spr 8]) =
    some (0x64, 0x0000000800003000, [0]) := by decide +kernel
-- V-CSR-11
theorem test_reserved : view idle (hostProgram [.csrr 0x7F]) = some (0, 0, [0]) := by decide +kernel
-- V-CSR-13
theorem test_soft_reset : view { idle with fault := some .divZero, errInfo := 3 }
    (hostProgram [.srst, .poll]) = some (0, 0, [0]) := by decide +kernel
-- P3, hazard variant: the access
theorem test_busy_access : view (running .nop opE) (hostProgram [.spr 0]) =
    some (0x55, 0x3000, [0]) := by decide +kernel

/-! ### Witnesses: every obligation with hypotheses has a state that meets them -/

/-- An idle block with every input written and the scratch words of V-MIX-1. -/
def loaded : State :=
  { idle with
    inW := Vector.replicate 14 true
    skW := Vector.replicate 16 true
    akW := Vector.replicate 2 true
    scratch := Memory.ofBytes 0 (wordsToBytes sp8)
    spW := List.range 8 }

-- V-FIN-1
theorem test_finalize : ∃ t, exec .finalize { loaded with inflight := some .finalize } = .next t ∧
    t.dgv = true ∧ t.scratch = loaded.scratch ∧ t.inflight = none := ⟨_, rfl, rfl, rfl, rfl⟩
-- R123
theorem test_hash : ∃ t, exec .hash { loaded with inflight := some .hash } = .next t ∧
    t.dgv = true ∧ t.spW = List.range 8 ∧ t.y = loaded.y := ⟨_, rfl, rfl, rfl, rfl⟩

/-- A block with a fault recorded. -/
def faultedIdle : State := { idle with fault := some .illegalCmd, errInfo := 0x103 }

theorem idle_ready : Ready idle := ⟨rfl, rfl⟩
theorem loaded_ready : Ready loaded := ⟨rfl, rfl⟩

theorem witness_DecodeIsTotal : decode 0x0000000000000F10 = some .mixop15 ∧ Ready idle ∧
    decode 0x8000000000000010 = none ∧ decode 0x0000000000000103 = none := by
  exact ⟨by decide, idle_ready, by decide, by decide⟩

theorem witness_StepRunsTheCommand :
    (planCommand 0xF10 idle).agenda = [.host (.csrWrite cmdIndex 0xF10)] ∧
    decode 0xF10 = some .mixop15 ∧ (planCommand 0xF10 idle).inflight = none ∧
    (running .nop opE).agenda = [] ∧ (running .nop opE).inflight = some .nop ∧
    decodeTableWord 64 0xF10 = some .mixop15 ∧ idle.inflight = none := by decide +kernel

theorem witness_QuiescentBlockStays : idle.inflight = none ∧ idle.agenda = [] ∧
    ({ idle with agenda := [.unit] } : State).agenda = [.unit] := by decide +kernel

theorem witness_SubmissionChecksInOrder :
    busy (running .nop opE) = true ∧ (running .nop opE).memWords ≤ (8 : BitVec 32).toNat ∧
    busy faultedIdle = false ∧ faulted faultedIdle = true ∧ Ready idle ∧ decode 0x103 = none ∧
    decode 0x020 = some .expand ∧ decode 0x003 = some .div128 ∧ idle.fault = none ∧
    ∃ t, runEvent (.host (.spmRead 8)) idle = .next t ∧ t.fault ≠ none := by
  exact ⟨by decide +kernel, by decide +kernel, by decide +kernel, by decide +kernel, idle_ready,
    by decide, by decide, by decide, rfl, _, rfl, by decide +kernel⟩

theorem witness_CommandFaultIsPrecise : Ready idle ∧
    (∃ t, csrWrite cmdIndex 0x103 idle = .next t ∧ t.fault ≠ none) ∧
    (running .nop opE).inflight = some .nop ∧ ∃ t, exec .nop (running .nop opE) = .next t :=
  ⟨idle_ready, ⟨_, rfl, by decide +kernel⟩, rfl, _, rfl⟩

/-- Each missing input, and no missing one. -/
theorem witness_PipelineRequiresInputs : Ready loaded ∧
    ¬ (inv { loaded with inW := loaded.inW.set 13 false } = true ∧ skv loaded = true) ∧
    ¬ (inv loaded = true ∧ skv { loaded with skW := loaded.skW.set 0 false } = true) ∧
    ¬ (spv { loaded with spW := List.range 7 } = true ∧ akv loaded = true) ∧
    inv loaded = true ∧ skv loaded = true ∧ akv loaded = true ∧ spv loaded = true := by
  exact ⟨loaded_ready, by decide +kernel⟩

theorem witness_DivisionFaults : Ready idle ∧ x2 idle = 0 ∧ x3 idle = 0 ∧ idle.fault = none ∧
    (∃ t, exec .divw idle = .next t ∧ t.fault = some .divZero) ∧
    ∃ t, exec .div128 { idle with x := #v[3, 0, 3, 0, 0, 0, 0] } = .next t ∧
      t.fault = some .divOverflow :=
  ⟨idle_ready, rfl, rfl, rfl, ⟨_, rfl, by decide +kernel⟩, _, rfl, by decide +kernel⟩

/-- The least and the greatest dividend that do not fit. -/
theorem witness_DivisionFaults_overflow :
    Ready { idle with x := #v[3, 0, 3, 0, 0, 0, 0] } ∧
    x2 { idle with x := #v[3, 0, 3, 0, 0, 0, 0] } ≠ 0 ∧
    x2 { idle with x := #v[3, 0, 3, 0, 0, 0, 0] } ≤ x0 { idle with x := #v[3, 0, 3, 0, 0, 0, 0] } ∧
    x2 { idle with x := #v[maxW, 0, 1, 0, 0, 0, 0] } ≤
      x0 { idle with x := #v[maxW, 0, 1, 0, 0, 0, 0] } := by
  exact ⟨⟨rfl, rfl⟩, by decide +kernel⟩

/-- The last scratch index in range and the first out of it, the first CSR index that a busy block
refuses, and a busy faulted block. -/
theorem witness_FirstFaultWins : faultedIdle.fault = some .illegalCmd ∧
    (Event.host (.spmRead 8)).isReset = false ∧
    (∃ t, runEvent (.host (.spmRead 8)) faultedIdle = .next t) ∧
    faultedIdle.memWords ≤ (8 : BitVec 32).toNat ∧
    busy { running .nop opE with fault := some .busyAccess } = true ∧
    readableWhileBusy (csrAt 0x02) = false ∧ csrAt 0x02 ≠ .ctrl :=
  ⟨rfl, rfl, ⟨_, rfl⟩, by decide, rfl, by decide, by decide⟩

theorem witness_FaultedBlockDropsCommands : faulted faultedIdle = true ∧ busy faultedIdle = false ∧
    (7 : BitVec 32).toNat < faultedIdle.memWords ∧
    indexIn ({ loaded with fault := some .spmRange } : State).spW 7 = true ∧
    readableWhileBusy (csrAt 0x04) = true ∧ csrAt 0x03 = .ctrl ∧ csrAt 0x08 ≠ .cmd ∧
    csrAt 0x08 ≠ .ctrl ∧ faulted { running .nop opE with fault := some .busyAccess } = true ∧
    commandCheck .nop { running .nop opE with fault := some .busyAccess } = none := by
  decide +kernel

theorem witness_FaultRecordFields : idle.fault = none ∧ faultedIdle.fault = some .illegalCmd := by
  decide

/-- The commands whose completion statement asks only that they are in flight: one witness for
NopCompletes, RotatesComplete, IsqrtCompletes, MultipliesComplete, PlainMixopsComplete,
RotateXorMixopsComplete, DivisionMixopsComplete, MultiplyMixopsComplete and MixautoCompletes. -/
theorem witness_plain_completions : ∀ i ∈ [Instr.nop, .rotl, .rotr, .isqrt, .mulhi, .mulhi128,
    .mixop0, .mixop1, .mixop2, .mixop3, .mixop4, .mixop5, .mixop6, .mixop7, .mixop8, .mixop9,
    .mixop10, .mixop11, .mixop12, .mixop13, .mixop14, .mixop15, .mixauto],
    (running i opE).inflight = some i ∧ commandCheck i (running i opE) = none := by decide +kernel

theorem witness_RotateAmountModulo64 : 128 % 64 = 0 ∧ 63 % 64 ≠ 0 ∧ 63 < 64 := by decide

theorem witness_Div128Completes : (running .div128 #v[2, 5, 3, 0, 0, 0, 0]).inflight = some .div128 ∧
    x2 (running .div128 #v[2, 5, 3, 0, 0, 0, 0]) ≠ 0 ∧
    x0 (running .div128 #v[2, 5, 3, 0, 0, 0, 0]) < x2 (running .div128 #v[2, 5, 3, 0, 0, 0, 0]) := by
  decide +kernel

theorem witness_UdivCompletes : (running .udiv opE).inflight = some .udiv ∧
    x2 (running .udiv opE) ≠ 0 := by decide +kernel

theorem witness_DivwCompletes : (running .divw #v[1, 0, 0, 3, 0, 0, 0]).inflight = some .divw ∧
    ¬ (x2 (running .divw #v[1, 0, 0, 3, 0, 0, 0]) = 0 ∧
      x3 (running .divw #v[1, 0, 0, 3, 0, 0, 0]) = 0) := by decide +kernel

theorem witness_MixingNeverFaults : Ready idle ∧ Instr.mixop15 = decodeMixop 15 ∧
    (running .mixop15 opE).inflight = some .mixop15 := by
  exact ⟨idle_ready, by decide, rfl⟩

theorem witness_SegmentsAreChained : 12 ≤ Config.segBytes 6 ∧ 3 < 4 := by decide

theorem witness_StageOneFillsTheScratch : Config.validSize 6 = true := by decide

theorem witness_ExpandCompletes : ({ loaded with inflight := some .expand } : State).inflight =
    some .expand ∧ inv loaded = true ∧ skv loaded = true ∧ 0 < loaded.memWords := by decide +kernel

/-- At the first and the last inner step of the smallest size. -/
theorem witness_InnerStepWritesTwoWords : 6 % 2 = 0 ∧ (List.replicate 6 (0 : Word)).length = 6 ∧
    0 < 6 / 2 ∧ 2 < 6 / 2 ∧ (0 < 6 ∧ 5 < 6) := by decide

/-- The smallest size, at the last inner step and the last value of the rolling index. -/
theorem witness_StageThreeStaysInRange : Config.validSize 6 = true ∧ 2 < 6 / 2 ∧
    (List.replicate 6 (0 : Word)).length = 6 ∧
    (∃ st : RoundState, st.sp = List.replicate 6 0 ∧ st.r < 6) ∧
    ∃ st : MixState, st.sp = List.replicate 6 0 ∧ st.r < 6 :=
  ⟨by decide, by decide, rfl, ⟨⟨_, 5, 0, 0⟩, rfl, by decide⟩, ⟨_, 5, 0⟩, rfl, by decide⟩

/-- A byte with bit 7 clear, a byte that has an inverse, and a block and a key. -/
theorem witness_AesRoundIsStandard : (0x7F : Byte).getLsbD 7 = false ∧ (0xFF : Byte) ≠ 0 ∧ 7 < 8 ∧
    (List.replicate 16 (0 : Byte)).length = 16 ∧ 3 < 4 := by decide

theorem witness_MixpassCompletes : ({ loaded with inflight := some .mixpass } : State).inflight =
    some .mixpass ∧ spv { loaded with inflight := some .mixpass } = true ∧
    akv { loaded with inflight := some .mixpass } = true := by decide +kernel

theorem witness_FinalizeCompletes : ({ loaded with inflight := some .finalize } : State).inflight =
    some .finalize ∧ spv { loaded with inflight := some .finalize } = true := by decide +kernel

theorem witness_HashCompletes : ({ loaded with inflight := some .hash } : State).inflight =
    some .hash ∧ inv { loaded with inflight := some .hash } = true ∧
    skv { loaded with inflight := some .hash } = true ∧
    akv { loaded with inflight := some .hash } = true := by decide +kernel

theorem witness_HashIsExpandMixpassFinalize : Config.validSize loaded.memWords = true ∧
    Ready loaded ∧ inv loaded = true ∧ skv loaded = true ∧ akv loaded = true := by
  exact ⟨by decide, loaded_ready, by decide +kernel⟩

/-- Two states that differ in the scratch memory and the operands, with the command about to run. -/
theorem witness_DigestDependsOnInputsOnly :
    ∃ s s' : State, s.x ≠ s'.x ∧ s.spW ≠ s'.spW ∧ s.memWords = s'.memWords ∧ s.inp = s'.inp ∧
      s.sk = s'.sk ∧ s.nonceLo = s'.nonceLo ∧ s.nonceHi = s'.nonceHi ∧ s.ak = s'.ak ∧ Ready s ∧
      Ready s' ∧ inv s = true ∧ skv s = true ∧ akv s = true ∧ inv s' = true ∧ skv s' = true ∧
      akv s' = true ∧ s.agenda = .host (.csrWrite cmdIndex 0x023) :: .unit :: [] ∧
      s'.agenda = .host (.csrWrite cmdIndex 0x023) :: .unit :: [.unit] ∧
      (∃ t, Host.Core.run core 2 s = .next t) ∧ ∃ t', Host.Core.run core 2 s' = .next t' := by
  refine ⟨{ loaded with agenda := [.host (.csrWrite cmdIndex 0x023), .unit] },
    { loaded with
      x := opE, scratch := [], spW := []
      agenda := [.host (.csrWrite cmdIndex 0x023), .unit, .unit] },
    by decide +kernel, by decide +kernel, rfl, rfl, rfl, rfl, rfl, rfl, ⟨rfl, rfl⟩, ⟨rfl, rfl⟩,
    by decide +kernel, by decide +kernel, by decide +kernel, by decide +kernel, by decide +kernel,
    by decide +kernel, rfl, rfl, ⟨_, rfl⟩, ⟨_, rfl⟩⟩

/-- A read that faults and a CTRL write come between acceptance and completion. -/
theorem witness_LatencyDoesNotMatter :
    (running .nop opE).inflight = some .nop ∧
    (∀ e ∈ [Event.host (.spmRead 0), .host (.csrWrite 0x03 6)], e.isPlainHost = true) ∧
    ∃ t, exec .nop (running .nop opE) = .next t := by
  exact ⟨rfl, by decide +kernel, _, rfl⟩

theorem witness_ByteViewIsWordView : 63 + 1 ≤ Config.sizeBytes idle.memWords := by decide

theorem witness_RegisterWriteReadsBack : idle.inflight = none ∧ (∃ n, CsrReg.x 6 = .x n) ∧
    (∃ n, CsrReg.inp 13 = .inp n) ∧ (∃ n, CsrReg.sk 15 = .sk n) ∧ ∃ n, CsrReg.ak 0 = .ak n :=
  ⟨rfl, ⟨_, rfl⟩, ⟨_, rfl⟩, ⟨_, rfl⟩, ⟨_, rfl⟩⟩

theorem witness_CsrMapAndReads : busy idle = false ∧ csrAt 0x07 = .reserved ∧
    csrAt 0x7F = .reserved := by decide

/-- The last byte of each string and the last sub-key. -/
theorem witness_NonceAndDataBytes : idle.inflight = none ∧ 111 < 112 ∧ 127 < 128 ∧ 15 < 16 ∧
    3 < 4 ∧ 31 < 32 := by decide

theorem witness_ReadOnlyAndReservedIgnoreWrites : busy idle = false ∧
    busy (running .nop opE) = true ∧ csrAt 0x07 = .reserved ∧ csrAt 0x7F = .reserved ∧
    csrAt 0x00 = .caps ∧ csrAt 0x01 = .status ∧ csrAt 0x04 = .errinfo ∧ csrAt 0x13 = .y 3 ∧
    csrAt 0x48 = .dg 0 := by decide +kernel

theorem witness_CtrlWriteEffects : (1 : Word).getLsbD 0 = true ∧ (6 : Word).getLsbD 0 = false := by
  decide

theorem witness_StatusFields : 0 < idle.memWords ∧ spv loaded = true ∧ spv idle = false := by
  decide +kernel

theorem witness_CapsIsConstant : Config.validSize idle.memWords = true ∧ busy idle = false := by
  decide

theorem witness_BusyAccessFaults : busy (running .nop opE) = true ∧
    allowedWhileBusy (.csrRead 0x08) = false ∧ allowedWhileBusy (.csrWrite 0x02 0) = false ∧
    allowedWhileBusy (.spmRead 0) = false ∧ allowedWhileBusy (.spmWrite 0 0) = false ∧
    (running .nop opE).fault = none ∧
    ({ running .nop opE with fault := some .busyAccess } : State).fault ≠ none ∧
    commandCheck .nop (running .nop opE) = none := by decide +kernel

/-- The last scratch word: to write, to read written, and to read unwritten. -/
theorem witness_ScratchReadsAndWrites : idle.inflight = none ∧
    (7 : BitVec 32).toNat < idle.memWords ∧ (55 < 8 * 7 ∧ 8 * 7 + 8 ≤ 64) ∧
    loaded.inflight = none ∧ (7 : BitVec 32).toNat < loaded.memWords ∧
    indexIn loaded.spW (7 : BitVec 32).toNat = true ∧
    indexIn idle.spW (7 : BitVec 32).toNat = false := by decide +kernel

/-- The first index out of range and the last. -/
theorem witness_ScratchRangeFaults : busy idle = false ∧ idle.memWords ≤ (8 : BitVec 32).toNat ∧
    idle.memWords ≤ (0xFFFFFFFF : BitVec 32).toNat ∧ idle.fault = none := by decide

/-- The invariant of a state with a command in flight, every input written and a fault recorded. -/
theorem blockInv_running : BlockInv { loaded with
    inflight := some .mixpass, fault := some .busyAccess, errInfo := 0x3000 } where
  size := by decide
  scratchWf := by decide +kernel
  scratchRange := by decide +kernel
  spWf := by decide +kernel
  spRange := by decide +kernel
  spListed := by decide +kernel
  contract := by intro i h; cases h; decide +kernel
  busyNotDone := by decide +kernel
  inpUnwritten := by decide +kernel
  skUnwritten := by decide +kernel
  akUnwritten := by decide +kernel
  digestUnwritten := by decide +kernel
  faultUnrecorded := by decide +kernel

theorem witness_SpvMeansNoUnknownByte : (∃ s, BlockInv s ∧ spv s = true) ∧
    63 < Config.sizeBytes idle.memWords :=
  ⟨⟨_, blockInv_running, by decide +kernel⟩, by decide⟩

theorem witness_CompletionFrame : (running .nop opE).inflight = some .nop ∧
    (∃ t, unitTurn (running .nop opE) = .next t) ∧ writesResults .nop = false ∧
    writesScratch .finalize = false ∧ writesDigest .expand = false :=
  ⟨rfl, ⟨_, rfl⟩, rfl, rfl, rfl⟩

/-- A write that sets a bit of each kind, a completion that sets the scratch words', and a reset. -/
theorem witness_WrittenBitsOnlyGrow :
    (∃ t, runEvent (.host (.csrWrite 0x2D 1)) idle = .next t) ∧ csrAt 0x2D = .inp 13 ∧
    csrAt 0x30 = .sk 0 ∧ csrAt 0x41 = .ak 1 ∧ (7 : BitVec 32).toNat < idle.memWords ∧
    (∃ t, runEvent .unit { loaded with inflight := some .expand } = .next t) ∧
    Event.unit.isReset = false ∧ (∃ t, runEvent .hardwareReset loaded = .next t) ∧
    Event.hardwareReset.isReset = true :=
  ⟨⟨_, rfl⟩, by decide, by decide, by decide, by decide, ⟨_, rfl⟩, rfl, ⟨_, rfl⟩, rfl⟩

theorem witness_HostNeverWritesResults :
    (∃ t, hostAccess (.spmWrite 0 1) (running .nop opE) = .next t) ∧
    (Event.host (.spmWrite 0 1)).isReset = false ∧ busy (running .nop opE) = true :=
  ⟨⟨_, rfl⟩, rfl, rfl⟩

theorem witness_ParametersNeverChange :
    ∃ t, step { idle with agenda := [.hardwareReset] } = .next t := ⟨_, rfl⟩

theorem witness_ResetEffect : (0xFFFFFFFFFFFFFFFF : Word).getLsbD 0 = true := by decide

theorem witness_StepKeepsInv : ∃ s, BlockInv s ∧ busy s = true := ⟨_, blockInv_running, rfl⟩

theorem witness_BlockComesToRest : ∃ s, BlockInv s ∧ s.inflight = some .mixpass ∧ spv s = true :=
  ⟨_, blockInv_running, rfl, by decide +kernel⟩

end Sys2Proof.Tests
end

/-!
PROOFS. The statements of 00_scope.md: the parameters (R5, R6), the block at reset (R35) and the AES
round (R13).
-/

namespace Sys2Proof.Machine

/-! ### `M` is a legal size, and no step changes it (R5, R6) -/

theorem validSize_iff (m : Nat) :
    Config.validSize m = true ↔ m % 2 = 0 ∧ 6 ≤ m ∧ m < 2 ^ 32 := by
  simp [Config.validSize, Config.sizeEven, Config.sizeAtLeast, Config.sizeBelow, and_assoc]

theorem validSize_memWords : Config.validSize Config.memWords = true := by
  rw [validSize_iff, Config.memWords]
  omega

@[simp] theorem submit_memWords (w : Word) (cmd : Option Instr) (check : Option FaultCode)
    (s : State) : (submit w cmd check s).memWords = s.memWords := by
  rcases submit_cases w cmd check s with
    ⟨_, h⟩ | ⟨_, _, h⟩ | ⟨_, _, ⟨_, h⟩ | ⟨_, _, _, _, h⟩ | ⟨_, _, _, h⟩⟩ <;> simp [h]

@[simp] theorem writeCtrl_memWords (v : Word) (s : State) :
    (writeCtrl v s).memWords = s.memWords := by
  rcases writeCtrl_cases v s with ⟨_, h⟩ | ⟨_, h⟩ <;> simp [h]

@[simp] theorem csrRead_memWords (idx : BitVec 7) (s : State) :
    (csrRead idx s).memWords = s.memWords := by
  rcases csrRead_cases idx s with ⟨_, _, h⟩ | ⟨_, h⟩ <;> simp [h]

@[simp] theorem spmRead_memWords (k : BitVec 32) (s : State) :
    (spmRead k s).memWords = s.memWords := by
  rcases spmRead_cases k s with ⟨_, h⟩ | ⟨_, _, h⟩ | ⟨_, _, _, h⟩ | ⟨_, _, _, h⟩ <;> simp [h]

@[simp] theorem spmWrite_memWords (k : BitVec 32) (v : Word) (s : State) :
    (spmWrite k v s).memWords = s.memWords := by
  rcases spmWrite_cases k v s with ⟨_, h⟩ | ⟨_, _, h⟩ | ⟨_, _, h⟩ <;> simp [h]

theorem exec_next_memWords {i : Instr} {s t : State} (h : exec i s = .next t) :
    t.memWords = s.memWords := by
  rw [exec_eq_runCommand] at h
  rcases runCommand_cases i (effectOf i) s with ⟨_, _, e⟩ | ⟨_, _, _, e⟩ | ⟨_, e⟩
  · rw [e] at h; cases h; simp
  · rw [e] at h; cases h
  · rw [e] at h; cases h; simp

theorem writeCmd_next_memWords {w : Word} {s t : State} (h : writeCmd w s = .next t) :
    t.memWords = s.memWords := by
  unfold writeCmd at h
  split at h
  · exact exec_next_memWords h
  · cases h; simp

theorem csrWrite_next_memWords {idx : BitVec 7} {v : Word} {s t : State}
    (h : csrWrite idx v s = .next t) : t.memWords = s.memWords := by
  rcases csrWrite_cases idx v s with ⟨_, _, e⟩ | ⟨_, _, e⟩ | ⟨_, e⟩ | ⟨_, _, _, e⟩
  · rw [e] at h; cases h; simp
  · exact writeCmd_next_memWords (e ▸ h)
  · rw [e] at h; cases h; simp
  · rw [e] at h; cases h; simp

theorem hostAccess_next_memWords {a : Access} {s t : State} (h : hostAccess a s = .next t) :
    t.memWords = s.memWords := by
  cases a with
  | csrRead idx => cases h; simp
  | csrWrite idx v => exact csrWrite_next_memWords h
  | spmRead k => cases h; simp
  | spmWrite k v => cases h; simp

theorem unitTurn_next_memWords {s t : State} (h : unitTurn s = .next t) :
    t.memWords = s.memWords := by
  unfold unitTurn at h
  split at h
  · exact exec_next_memWords h
  · cases h; rfl

theorem runEvent_next_memWords {e : Event} {s t : State} (h : runEvent e s = .next t) :
    t.memWords = s.memWords := by
  cases e with
  | host a => exact hostAccess_next_memWords h
  | unit => exact unitTurn_next_memWords h
  | hardwareReset => cases h; simp

@[simp] theorem nextEvent_memWords (s : State) : (nextEvent s).2.memWords = s.memWords := by
  unfold nextEvent; split <;> rfl

theorem step_next_memWords {s t : State} (h : step s = .next t) : t.memWords = s.memWords :=
  (runEvent_next_memWords h).trans (nextEvent_memWords s)

theorem caps_iters (s : State) : (caps s).extractLsb' 32 8 = 3 :=
  (BitVec.extractLsb'_append_eq_of_le (le_refl 32)).trans BitVec.extractLsb'_append_eq_right

theorem caps_memWords (s : State) : (caps s).extractLsb' 0 32 = BitVec.ofNat 32 s.memWords :=
  BitVec.extractLsb'_append_eq_right

/-- Settles O55, from what each event does to `M`. -/
theorem parametersNeverChange : Obligations.ParametersNeverChange := by
  intro s t h
  have hm := step_next_memWords h
  exact ⟨hm, by simp only [caps, hm], caps_iters s, caps_memWords s⟩

/-! ### The block at reset (R35) -/

/-- Whatever the legal size is, the block meets the invariant at reset. -/
theorem blockInv_resetOf {m : Nat} (hm : Config.validSize m = true) :
    BlockInv (State.resetOf m) where
  size := hm
  scratchWf := rfl
  scratchRange := by simp [State.resetOf]
  spWf := rfl
  spRange := by simp [State.resetOf]
  spListed := by simp [State.resetOf]
  contract := by simp [State.resetOf]
  busyNotDone := fun _ => rfl
  inpUnwritten := by simp [State.resetOf]
  skUnwritten := by simp [State.resetOf]
  akUnwritten := by simp [State.resetOf]
  digestUnwritten := fun _ => rfl
  faultUnrecorded := fun _ => rfl

/-- Settles O58: every size that `M` may take (R5) is a legal one. -/
theorem invAtReset : Obligations.InvAtReset := blockInv_resetOf validSize_memWords

/-! ### Multiplication in GF(2^8) (R13) -/

@[simp] theorem gfMulBits_zero (a : Byte) (n : Nat) : gfMulBits a 0#8 n = 0#8 := by
  induction n generalizing a with
  | zero => rfl
  | succ n ih => simpa [gfMulBits] using ih (gfDouble a)

theorem gfMul_one (a : Byte) : gfMul a 1 = a := by
  have h : (1#8) >>> 1 = 0#8 := rfl
  simp [gfMul, gfMulBits.eq_2 a 1#8 7, h]

theorem gfMulBits_xor (a b c : Byte) (n : Nat) :
    gfMulBits a (b ^^^ c) n = gfMulBits a b n ^^^ gfMulBits a c n := by
  induction n generalizing a b c with
  | zero => simp [gfMulBits]
  | succ n ih =>
    have hbit : (if (b ^^^ c).getLsbD 0 then a else 0) =
        (if b.getLsbD 0 then a else 0) ^^^ (if c.getLsbD 0 then a else 0) := by
      rw [BitVec.getLsbD_xor]
      cases b.getLsbD 0 <;> cases c.getLsbD 0 <;> simp
    simp only [gfMulBits, BitVec.ushiftRight_xor_distrib, ih, hbit]
    ac_rfl

theorem gfMul_xor (a b c : Byte) : gfMul a (b ^^^ c) = gfMul a b ^^^ gfMul a c :=
  gfMulBits_xor a b c 8

/-- Reading one bit more of a factor that has only `n` bits adds nothing. -/
theorem gfMulBits_succ_of_lt {b : Byte} {n : Nat} (h : b.toNat < 2 ^ n) (a : Byte) :
    gfMulBits a b (n + 1) = gfMulBits a b n := by
  induction n generalizing a b with
  | zero =>
    obtain rfl : b = 0#8 := BitVec.eq_of_toNat_eq (by simpa using h)
    rw [gfMulBits_zero, gfMulBits_zero]
  | succ n ih =>
    have hb : (b >>> 1).toNat < 2 ^ n := by
      rw [BitVec.toNat_ushiftRight, Nat.shiftRight_eq_div_pow]; omega
    rw [gfMulBits, ih hb, gfMulBits]

theorem gfMulBits_shiftLeft_one {b : Byte} (h : b.toNat < 2 ^ 7) (a : Byte) (n : Nat) :
    gfMulBits a (b <<< 1) (n + 1) = gfMulBits (gfDouble a) b n := by
  have hb : (b <<< 1) >>> 1 = b := by
    apply BitVec.eq_of_toNat_eq
    simp only [BitVec.toNat_ushiftRight, BitVec.toNat_shiftLeft, Nat.shiftRight_eq_div_pow,
      Nat.shiftLeft_eq]
    omega
  simp [gfMulBits, hb]

theorem gfDouble_eq (a : Byte) :
    gfDouble a = if a.getLsbD 7 then (a <<< 1) ^^^ 0x1B else a <<< 1 := by
  rw [gfDouble, BitVec.msb_eq_getLsbD_last]

theorem gfMul_shiftLeft_one (a : Byte) {b : Byte} (h : b.getLsbD 7 = false) :
    gfMul a (b <<< 1) = gfMul (gfDouble a) b := by
  have hb : b.toNat < 2 ^ 7 :=
    BitVec.toNat_lt_of_msb_false (by rwa [BitVec.msb_eq_getLsbD_last])
  rw [gfMul, gfMulBits_shiftLeft_one hb, gfMul, gfMulBits_succ_of_lt hb]

/-- The field has 255 invertible elements; the power 254 is checked on each. -/
theorem gfMul_gfInv : ∀ b : Byte, b ≠ 0 → gfMul b (gfInv b) = 1 := by decide +kernel

/-! ### The S-box, bit by bit (R13) -/

theorem getLsbD_byte_rotateLeft (q : Byte) {n i : Nat} (hn : n < 8) (hi : i < 8) :
    (q.rotateLeft n).getLsbD i = q.getLsbD ((i + (8 - n)) % 8) := by
  rw [BitVec.getLsbD_rotateLeft, Nat.mod_eq_of_lt hn]
  by_cases h : i < n
  · have hmod : (i + (8 - n)) % 8 = 8 - n + i := by omega
    simp [h, hmod]
  · have hmod : (i + (8 - n)) % 8 = i - n := by omega
    simp [h, hi, hmod]

theorem getLsbD_sbox (b : Byte) {i : Nat} (hi : i < 8) : (sbox b).getLsbD i =
    ((gfInv b).getLsbD i ^^ (gfInv b).getLsbD ((i + 4) % 8) ^^ (gfInv b).getLsbD ((i + 5) % 8) ^^
      (gfInv b).getLsbD ((i + 6) % 8) ^^ (gfInv b).getLsbD ((i + 7) % 8) ^^
      (0x63 : Byte).getLsbD i) := by
  simp only [sbox, BitVec.getLsbD_xor]
  rw [getLsbD_byte_rotateLeft _ (by decide) hi, getLsbD_byte_rotateLeft _ (by decide) hi,
    getLsbD_byte_rotateLeft _ (by decide) hi, getLsbD_byte_rotateLeft _ (by decide) hi]

/-! ### The round, byte by byte (R13) -/

theorem byteAt_map_range (f : Nat → Byte) {k n : Nat} (h : n < k) :
    byteAt ((List.range k).map f) n = f n := by simp [byteAt, h]

theorem byteAt_subBytes {s : List Byte} {n : Nat} (h : n < s.length) :
    byteAt (subBytes s) n = sbox (byteAt s n) := by simp [byteAt, subBytes, h]

theorem byteAt_shiftRows (s : List Byte) {c r : Nat} (hc : c < 4) (hr : r < 4) :
    byteAt (shiftRows s) (4 * c + r) = byteAt s (r + 4 * ((c + r) % 4)) := by
  have h1 : (4 * c + r) / 4 = c := by omega
  have h2 : (4 * c + r) % 4 = r := by omega
  rw [shiftRows, byteAt_map_range _ (by omega), h1, h2]

theorem byteAt_mixColumns (t : List Byte) {c r : Nat} (hc : c < 4) (hr : r < 4) :
    byteAt (mixColumns t) (4 * c + r) =
      byteAt (mixColumn (byteAt t (4 * c + 0)) (byteAt t (4 * c + 1))
        (byteAt t (4 * c + 2)) (byteAt t (4 * c + 3))) r := by
  interval_cases c <;> interval_cases r <;> rfl

theorem byteAt_addRoundKey (u key : List Byte) {n : Nat} (h : n < 16) :
    byteAt (addRoundKey u key) n = byteAt u n ^^^ byteAt key n :=
  byteAt_map_range _ h

/-- Byte `r` of column `c` of the round: the four S-box bytes that ShiftRows brings to the column,
mixed, with the key byte. -/
theorem byteAt_aesRound {blk : List Byte} (key : List Byte) {t : Nat → Nat → Byte}
    (hl : blk.length = 16) (ht : ∀ c r, t c r = sbox (byteAt blk (r + 4 * ((c + r) % 4))))
    {c r : Nat} (hc : c < 4) (hr : r < 4) :
    byteAt (aesRound blk key) (4 * c + r) =
      byteAt (mixColumn (t c 0) (t c 1) (t c 2) (t c 3)) r ^^^ byteAt key (4 * c + r) := by
  have hcol : ∀ k < 4, byteAt (shiftRows (subBytes blk)) (4 * c + k) = t c k := fun k hk => by
    rw [byteAt_shiftRows _ hc hk, byteAt_subBytes (by omega), ht]
  rw [aesRound, byteAt_addRoundKey _ _ (by omega), byteAt_mixColumns _ hc hr,
    hcol 0 (by decide), hcol 1 (by decide), hcol 2 (by decide), hcol 3 (by decide)]

@[simp] theorem aesRound_length (blk key : List Byte) : (aesRound blk key).length = 16 := by
  simp [aesRound, addRoundKey]

/-! ### The check values of R13 and V-AES-1 -/

theorem sbox_zero : sbox 0x00 = 0x63 := by decide +kernel

theorem aesRound_zero :
    aesRound (List.replicate 16 0) (List.replicate 16 0) = List.replicate 16 0x63 := by
  rw [aesRound, subBytes, List.map_replicate, sbox_zero]
  decide +kernel

theorem subBytes_fips :
    subBytes [0x19, 0x3D, 0xE3, 0xBE, 0xA0, 0xF4, 0xE2, 0x2B,
      0x9A, 0xC6, 0x8D, 0x2A, 0xE9, 0xF8, 0x48, 0x08] =
    [0xD4, 0x27, 0x11, 0xAE, 0xE0, 0xBF, 0x98, 0xF1,
      0xB8, 0xB4, 0x5D, 0xE5, 0x1E, 0x41, 0x52, 0x30] := by decide +kernel

/-- The FIPS-197 round, from its state after SubBytes: so the kernel works out each S-box byte once,
and not again for every byte that MixColumns makes of it. -/
theorem aesRound_fips :
    aesRound
      [0x19, 0x3D, 0xE3, 0xBE, 0xA0, 0xF4, 0xE2, 0x2B,
        0x9A, 0xC6, 0x8D, 0x2A, 0xE9, 0xF8, 0x48, 0x08]
      [0xA0, 0xFA, 0xFE, 0x17, 0x88, 0x54, 0x2C, 0xB1,
        0x23, 0xA3, 0x39, 0x39, 0x2A, 0x6C, 0x76, 0x05] =
    [0xA4, 0x9C, 0x7F, 0xF2, 0x68, 0x9F, 0x35, 0x2B,
      0x6B, 0x5B, 0xEA, 0x43, 0x02, 0x6A, 0x50, 0x49] := by
  rw [aesRound, subBytes_fips]
  decide +kernel

/-- Settles O39: the field, the S-box and the round by the lemmas above, and the check values. -/
theorem aesRoundIsStandard : Obligations.AesRoundIsStandard := by
  refine ⟨gfMul_one, gfMul_xor, fun a b h => ?_, by decide, gfMul_gfInv, fun b i => getLsbD_sbox b,
    fun blk key t hl _ ht => ⟨aesRound_length blk key, fun c hc => ⟨?_, ?_, ?_, ?_⟩⟩,
    sbox_zero, by decide +kernel, by decide +kernel, by decide +kernel, aesRound_zero,
    aesRound_fips⟩
  · rw [gfMul_shiftLeft_one a h, gfDouble_eq]
  · exact byteAt_aesRound key hl ht hc (r := 0) (by decide)
  · exact byteAt_aesRound key hl ht hc (r := 1) (by decide)
  · exact byteAt_aesRound key hl ht hc (r := 2) (by decide)
  · exact byteAt_aesRound key hl ht hc (r := 3) (by decide)

end Sys2Proof.Machine

/-!
PROOFS. The statements of 10_state.md, first part: what each operation may change, and the invariant
of the block (R14, R31, R32).
-/

namespace Sys2Proof.Machine

/-! ### Submission, said once -/

/-- On an idle block a CMD write is a submission: no command is in flight that it could complete. -/
theorem writeCmd_of_idle {s : State} (h : s.inflight = none) (w : Word) :
    ∃ v, writeCmd w s =
      .next (submit v (decode w) ((decode w).bind fun i => commandCheck i s) s) := by
  unfold writeCmd
  split
  · next i hd => exact ⟨encode i, by rw [exec_submit (by simp [h]), hd]; rfl⟩
  · next hd => exact ⟨w, by rw [hd]; rfl⟩

/-! ### What an effect may write -/

theorem writeBack_length (m j : Nat) (result : Word) (sp : List Word) :
    (writeBack m j result sp).length = sp.length := by simp [writeBack]

theorem innerStep_sp_length (m i : Nat) (st : MixState) (j : Nat) :
    (innerStep m i st j).sp.length = st.sp.length := writeBack_length _ _ _ _

theorem innerSteps_sp_length (m i : Nat) (js : List Nat) (st : MixState) :
    (js.foldl (innerStep m i) st).sp.length = st.sp.length := by
  induction js generalizing st with
  | nil => rfl
  | cons j js ih => rw [List.foldl_cons, ih, innerStep_sp_length]

theorem outerRound_sp_length (m : Nat) (key : List Byte) (st : RoundState) (i : Nat) :
    (outerRound m key st i).sp.length = st.sp.length := innerSteps_sp_length _ _ _ _

/-- The three outer rounds, one after the other (R120). -/
theorem stage3_eq (m : Nat) (sp : List Word) (key : List Byte) :
    stage3 m sp key =
      (outerRound m key (outerRound m key (outerRound m key (mixStart m sp) 0) 1) 2).sp := rfl

@[simp] theorem stage3_length (m : Nat) (sp : List Word) (key : List Byte) :
    (stage3 m sp key).length = sp.length := by
  rw [stage3_eq, outerRound_sp_length, outerRound_sp_length, outerRound_sp_length]; rfl

@[simp] theorem scratchWords_length (s : State) : (scratchWords s).length = s.memWords := by
  simp [scratchWords]

@[simp] theorem stage1Of_length (s : State) : (stage1Of s).length = s.memWords :=
  bytesToWords_length _ _

@[simp] theorem hashWords_length (s : State) : (hashWords s).length = s.memWords := by
  simp [hashWords]

/-- Everything an effect can do to the scratch memory (20_memory.md R38): nothing, or it lays out
all `M` words and keeps the written ones or counts all as written. -/
theorem effectOf_scratch_cases (i : Instr) (s : State) :
    ((effectOf i s).scratch = s.scratch ∧ (effectOf i s).spW = s.spW) ∨
    ∃ ws : List Word, ws.length = s.memWords ∧
      (effectOf i s).scratch = Memory.ofBytes 0 (wordsToBytes ws) ∧
      ((effectOf i s).spW = s.spW ∨ (effectOf i s).spW = List.range s.memWords) := by
  by_cases hw : writesScratch i = false
  · exact .inl (effectOf_scratch i s hw)
  · right
    cases i
    case expand => exact ⟨stage1Of s, stage1Of_length s, rfl, .inr rfl⟩
    case mixpass =>
      exact ⟨stage3 s.memWords (scratchWords s) (aesKey s), by simp, rfl, .inl rfl⟩
    case hash => exact ⟨hashWords s, hashWords_length s, rfl, .inr rfl⟩
    all_goals exact absurd rfl hw

/-- Everything an effect can do to the digest (R29). -/
theorem effectOf_digest_cases (i : Instr) (s : State) :
    ((effectOf i s).dg = s.dg ∧ (effectOf i s).dgv = s.dgv) ∨ (effectOf i s).dgv = true := by
  by_cases hw : writesDigest i = false
  · exact .inl (effectOf_dg i s hw)
  · right
    cases i
    case finalize => rfl
    case hash => rfl
    all_goals exact absurd rfl hw

/-! ### The scratch memory's part of the invariant -/

/-- What `BlockInv` says of the scratch cells and the written words, for a size `m`. -/
structure ScratchInv (m : Nat) (cells : List Host.Cell) (written : List Nat) : Prop where
  cellsWf : Memory.wf cells = true
  cellsRange : ∀ c ∈ cells, c.1 < Config.sizeBytes m
  writtenWf : indexWfFrom 0 written = true
  writtenRange : ∀ k ∈ written, k < m
  listed : ∀ k ∈ written, ∀ b < 8, (Memory.read cells (8 * k + b)).isSome = true

theorem BlockInv.scratchInv {s : State} (h : BlockInv s) :
    ScratchInv s.memWords s.scratch s.spW :=
  ⟨h.scratchWf, h.scratchRange, h.spWf, h.spRange, h.spListed⟩

/-- One word more keeps it: its eight bytes are listed, and no byte is lost. -/
theorem ScratchInv.writeWord {m k : Nat} {cells : List Host.Cell} {written : List Nat}
    (h : ScratchInv m cells written) (hk : k < m) (v : Word) :
    ScratchInv m (Memory.writeBytes cells (8 * k) (le64 v)) (indexInsert written k) where
  cellsWf := Memory.wf_writeBytes _ _ h.cellsWf
  cellsRange c hc := by
    rcases Memory.mem_writeBytes hc with ⟨_, hlt⟩ | hc
    · rw [le64_length] at hlt; unfold Config.sizeBytes; omega
    · exact h.cellsRange c hc
  writtenWf := indexWfFrom_indexInsert (Nat.zero_le k) h.writtenWf
  writtenRange j hj := by
    rcases mem_indexInsert.mp hj with rfl | hj
    · exact hk
    · exact h.writtenRange j hj
  listed j hj b hb := by
    rw [Memory.read_writeBytes]
    rcases mem_indexInsert.mp hj with rfl | hj
    · simp [hb]
    · split
      · simp [h.listed j hj b hb]
      · exact h.listed j hj b hb

/-- A layout of all `m` words lists every byte, whichever words count as written. -/
theorem ScratchInv.ofWords {m : Nat} {ws : List Word} {written : List Nat} (hl : ws.length = m)
    (hwf : indexWfFrom 0 written = true) (hr : ∀ k ∈ written, k < m) :
    ScratchInv m (Memory.ofBytes 0 (wordsToBytes ws)) written where
  cellsWf := Memory.wf_ofBytes _
  cellsRange c hc := by
    have := Memory.mem_ofBytes hc
    rw [wordsToBytes_length] at this; unfold Config.sizeBytes; omega
  writtenWf := hwf
  writtenRange := hr
  listed k hk b hb := by
    have := hr k hk
    have hlt : 8 * k + b < 8 * ws.length := by omega
    simpa [Memory.read_ofBytes] using hlt

theorem ScratchInv.effectOf {s : State} (h : ScratchInv s.memWords s.scratch s.spW) (i : Instr) :
    ScratchInv s.memWords (effectOf i s).scratch (effectOf i s).spW := by
  rcases effectOf_scratch_cases i s with ⟨hc, hw⟩ | ⟨ws, hl, hc, hw | hw⟩
  · rw [hc, hw]; exact h
  · rw [hc, hw]; exact .ofWords hl h.writtenWf h.writtenRange
  · rw [hc, hw]; exact .ofWords hl (indexWf_range _) fun k => List.mem_range.mp

/-! ### Data registers and their written bits (R31) -/

theorem getElem_set_fin {α : Type} {n : Nat} (xs : Vector α n) (j k : Fin n) (v : α) :
    (xs.set j v)[k] = if k = j then v else xs[k] := by
  simp only [Fin.getElem_fin, Vector.getElem_set, Fin.ext_iff, eq_comm]

theorem getElem_setBit {n : Nat} (bits : Vector Bool n) (j k : Fin n) :
    (bits.set j true)[k] = (bits[k] || decide (k = j)) := by
  rw [getElem_set_fin]; split <;> simp [*]

/-- Storing a word with its written bit keeps "a word that was not written is 0". -/
theorem zero_of_unwritten_set {n : Nat} {words : Vector Word n} {bits : Vector Bool n}
    (h : ∀ k : Fin n, bits[k] = false → words[k] = 0) (j : Fin n) (v : Word) :
    ∀ k : Fin n, (bits.set j true)[k] = false → (words.set j v)[k] = 0 := by
  intro k hk
  rw [getElem_setBit, Bool.or_eq_false_iff, decide_eq_false_iff_not] at hk
  rw [getElem_set_fin, if_neg hk.2]
  exact h k hk.1

/-! ### Each operation keeps the invariant -/

/-- What the agents plan and what the host has read is no part of the invariant. -/
theorem BlockInv.setPlans {s : State} (h : BlockInv s) (es : List Event) (vs : List Word)
    (n : Nat) : BlockInv { s with agenda := es, returned := vs, freeReads := n } :=
  { h with }

theorem BlockInv.deliver {s : State} (h : BlockInv s) (v : Word) : BlockInv (deliver v s) :=
  h.setPlans s.agenda (v :: s.returned) s.freeReads

theorem BlockInv.countFreeRead {s : State} (h : BlockInv s) : BlockInv (countFreeRead s) :=
  h.setPlans s.agenda s.returned (s.freeReads + 1)

theorem BlockInv.raise {s : State} (h : BlockInv s) (f : FaultCode) (w : Word) :
    BlockInv (raise f w s) := by
  cases hf : s.fault with
  | none => rw [raise_of_none hf]; exact { h with faultUnrecorded := nofun }
  | some g => rw [raise_of_some hf]; exact h

/-- A command is accepted where its checks pass, so the contract holds from then on (R139). -/
theorem BlockInv.accept {s : State} (h : BlockInv s) {i : Instr} (hc : commandCheck i s = none) :
    BlockInv (accept i s) :=
  { h with
    contract := by rintro _ ⟨⟩; exact hc
    busyNotDone := fun _ => rfl }

theorem BlockInv.submit {s : State} (h : BlockInv s) (w : Word) (cmd : Option Instr) :
    BlockInv (submit w cmd (cmd.bind fun i => commandCheck i s) s) := by
  rcases submit_cases w cmd (cmd.bind fun i => commandCheck i s) s with
    ⟨_, e⟩ | ⟨_, _, e⟩ | ⟨_, _, ⟨_, e⟩ | ⟨_, _, _, _, e⟩ | ⟨i, rfl, hc, e⟩⟩ <;> rw [e]
  · exact h.raise _ _
  · exact h
  · exact h.raise _ _
  · exact h.raise _ _
  · exact h.accept hc

/-- A reset leaves the reset state with whatever cells of the scratch memory it keeps (R151). -/
theorem BlockInv.clearedState {s : State} (h : BlockInv s) {cells : List Host.Cell}
    (hc : ScratchInv s.memWords cells []) : BlockInv (clearedState cells s) :=
  { blockInv_resetOf h.size with
    scratchWf := hc.cellsWf
    scratchRange := hc.cellsRange
    spListed := hc.listed }

theorem BlockInv.softReset {s : State} (h : BlockInv s) : BlockInv (softReset s) :=
  h.clearedState ⟨h.scratchWf, h.scratchRange, rfl, by simp, by simp⟩

theorem BlockInv.hardReset {s : State} (h : BlockInv s) : BlockInv (hardReset s) :=
  h.clearedState ⟨rfl, by simp, rfl, by simp, by simp⟩

theorem BlockInv.writeCtrl {s : State} (h : BlockInv s) (v : Word) : BlockInv (writeCtrl v s) := by
  rcases writeCtrl_cases v s with ⟨_, e⟩ | ⟨_, e⟩ <;> rw [e]
  · exact h.softReset
  · exact { h with
      busyNotDone := fun hb => by
        have : s.done = false := h.busyNotDone hb
        simp [this] }

/-- A register write on an idle block: no contract to keep, and a data word it changes counts as
written (R31). -/
theorem BlockInv.storeCsr {s : State} (h : BlockInv s) (hi : s.inflight = none) (r : CsrReg)
    (v : Word) : BlockInv (storeCsr r v s) := by
  have hc : ∀ i, s.inflight = some i → commandCheck i (Machine.storeCsr r v s) = none := by
    simp [hi]
  cases r
  case inp n =>
    exact { h with contract := hc, inpUnwritten := zero_of_unwritten_set h.inpUnwritten n v }
  case sk n =>
    exact { h with contract := hc, skUnwritten := zero_of_unwritten_set h.skUnwritten n v }
  case ak n =>
    exact { h with contract := hc, akUnwritten := zero_of_unwritten_set h.akUnwritten n v }
  all_goals exact { h with contract := hc }

theorem BlockInv.writeScratchWord {s : State} (h : BlockInv s) (hi : s.inflight = none) {k : Nat}
    (hk : k < s.memWords) (v : Word) : BlockInv (writeScratchWord k v s) :=
  have hs := h.scratchInv.writeWord hk v
  { h with
    scratchWf := hs.cellsWf
    scratchRange := hs.cellsRange
    spWf := hs.writtenWf
    spRange := hs.writtenRange
    spListed := hs.listed
    contract := by simp [hi] }

theorem BlockInv.complete {s : State} (h : BlockInv s) (i : Instr) :
    BlockInv (retire (Machine.effectOf i s)) where
  size := by simpa using h.size
  scratchWf := (h.scratchInv.effectOf i).cellsWf
  scratchRange := by simpa using (h.scratchInv.effectOf i).cellsRange
  spWf := (h.scratchInv.effectOf i).writtenWf
  spRange := by simpa using (h.scratchInv.effectOf i).writtenRange
  spListed := (h.scratchInv.effectOf i).listed
  contract := by simp
  busyNotDone := by simp
  inpUnwritten := by simpa using h.inpUnwritten
  skUnwritten := by simpa using h.skUnwritten
  akUnwritten := by simpa using h.akUnwritten
  digestUnwritten := by
    rcases effectOf_digest_cases i s with ⟨hd, hv⟩ | hv
    · simpa [hd, hv] using h.digestUnwritten
    · simp [hv]
  faultUnrecorded := by simpa using h.faultUnrecorded

/-! ### Each event answers a next state and keeps the invariant -/

theorem csrRead_keeps_blockInv {s : State} (h : BlockInv s) (idx : BitVec 7) :
    BlockInv (csrRead idx s) := by
  rcases csrRead_cases idx s with ⟨_, _, e⟩ | ⟨_, e⟩ <;> rw [e]
  · exact (h.raise _ _).deliver _
  · exact h.deliver _

theorem csrWrite_keeps_blockInv {s : State} (h : BlockInv s) (idx : BitVec 7) (v : Word) :
    ∃ t, csrWrite idx v s = .next t ∧ BlockInv t := by
  rcases csrWrite_cases idx v s with ⟨_, _, e⟩ | ⟨hb, _, e⟩ | ⟨_, e⟩ | ⟨hb, _, _, e⟩ <;> rw [e]
  · exact ⟨_, rfl, h.raise _ _⟩
  · obtain ⟨w, e⟩ := writeCmd_of_idle ((busy_eq_false_iff s).mp hb) v
    exact ⟨_, e, h.submit _ _⟩
  · exact ⟨_, rfl, h.writeCtrl v⟩
  · exact ⟨_, rfl, h.storeCsr ((busy_eq_false_iff s).mp hb) _ _⟩

theorem spmRead_keeps_blockInv {s : State} (h : BlockInv s) (k : BitVec 32) :
    BlockInv (spmRead k s) := by
  rcases spmRead_cases k s with ⟨_, e⟩ | ⟨_, _, e⟩ | ⟨_, _, _, e⟩ | ⟨_, _, _, e⟩ <;> rw [e]
  · exact (h.raise _ _).deliver _
  · exact (h.raise _ _).deliver _
  · exact h.deliver _
  · exact h.countFreeRead.deliver _

theorem spmWrite_keeps_blockInv {s : State} (h : BlockInv s) (k : BitVec 32) (v : Word) :
    BlockInv (spmWrite k v s) := by
  rcases spmWrite_cases k v s with ⟨_, e⟩ | ⟨_, _, e⟩ | ⟨hb, hk, e⟩ <;> rw [e]
  · exact h.raise _ _
  · exact h.raise _ _
  · exact h.writeScratchWord ((busy_eq_false_iff s).mp hb) hk v

theorem hostAccess_keeps_blockInv {s : State} (h : BlockInv s) (a : Access) :
    ∃ t, hostAccess a s = .next t ∧ BlockInv t := by
  cases a with
  | csrRead idx => exact ⟨_, rfl, csrRead_keeps_blockInv h idx⟩
  | csrWrite idx v => exact csrWrite_keeps_blockInv h idx v
  | spmRead k => exact ⟨_, rfl, spmRead_keeps_blockInv h k⟩
  | spmWrite k v => exact ⟨_, rfl, spmWrite_keeps_blockInv h k v⟩

theorem unitTurn_of_inflight {s : State} {i : Instr} (h : s.inflight = some i) :
    unitTurn s = exec i s := by simp [unitTurn, h]

theorem unitTurn_of_idle {s : State} (h : s.inflight = none) : unitTurn s = .next s := by
  simp [unitTurn, h]

/-- The completion step never stops: the command in flight still passes its checks. -/
theorem unitTurn_keeps_blockInv {s : State} (h : BlockInv s) :
    ∃ t, unitTurn s = .next t ∧ BlockInv t := by
  cases hi : s.inflight with
  | none => exact ⟨s, unitTurn_of_idle hi, h⟩
  | some i =>
    exact ⟨_, (unitTurn_of_inflight hi).trans (exec_complete hi (h.contract i hi)), h.complete i⟩

theorem runEvent_keeps_blockInv {s : State} (h : BlockInv s) (e : Event) :
    ∃ t, runEvent e s = .next t ∧ BlockInv t := by
  cases e with
  | host a => exact hostAccess_keeps_blockInv h a
  | unit => exact unitTurn_keeps_blockInv h
  | hardwareReset => exact ⟨_, rfl, h.hardReset⟩

theorem nextEvent_keeps_blockInv {s : State} (h : BlockInv s) : BlockInv (nextEvent s).2 := by
  unfold nextEvent
  split
  · exact h
  · exact h.setPlans _ _ _

/-- Settles O59, by what each event does: none stops, and each operation it is made of keeps the
invariant. -/
theorem stepKeepsInv : Obligations.StepKeepsInv := fun _ h =>
  runEvent_keeps_blockInv (nextEvent_keeps_blockInv h) _

end Sys2Proof.Machine

/-!
PROOFS. The statements of 10_state.md, second part: what NOP and the wide-arithmetic commands leave
in Y (R18, R32; 40_wide_arith.md R61 to R73).
-/

namespace Sys2Proof.Machine

/-! ### The rotates (R60) are the rotations of a word -/

theorem rotl64_eq_rotateLeft (x : Word) (n : Nat) : rotl64 x n = x.rotateLeft n := by
  rw [rotl64, BitVec.rotateLeft_def]
  split
  · next h => simp [h, BitVec.ushiftRight_eq_zero]
  · rfl

theorem rotr64_eq_rotateRight (x : Word) (n : Nat) : rotr64 x n = x.rotateRight n := by
  rw [rotr64, BitVec.rotateRight_def]
  split
  · next h => simp [h]
  · rfl

/-! ### Products (R64) -/

theorem hi64_lo64 (p : DWord) : (hi64 p).toNat * 2 ^ 64 + (lo64 p).toNat = p.toNat := by
  rw [toNat_hi64, toNat_lo64]; omega

theorem toNat_zeroExtend_word (x : Word) : (x.zeroExtend 128).toNat = x.toNat := by
  rw [BitVec.toNat_setWidth]; omega

theorem toNat_mul128x64 (hi lo c : Word) :
    (mul128x64 hi lo c).toNat = ((hi.toNat * 2 ^ 64 + lo.toNat) * c.toNat) % 2 ^ 128 := by
  rw [mul128x64, BitVec.toNat_mul, toNat_combine, toNat_zeroExtend_word]

theorem toNat_mul128x128 (p q s t : Word) :
    (mul128x128 p q s t).toNat =
      ((p.toNat * 2 ^ 64 + q.toNat) * (s.toNat * 2 ^ 64 + t.toNat)) % 2 ^ 128 := by
  rw [mul128x128, BitVec.toNat_mul, toNat_combine, toNat_combine]

/-! ### Divisions (R61, R62, R65): the identity, and the bound of the remainder -/

theorem toNat_pos_of_ne_zero {w : Nat} {x : BitVec w} (h : x ≠ 0) : 0 < x.toNat :=
  Nat.pos_of_ne_zero fun e => h (BitVec.eq_of_toNat_eq e)

/-- With `hi < d` the quotient and the remainder both fit a word. -/
theorem divide128By64_spec {hi lo d : Word} (h : hi.toNat < d.toNat) :
    hi.toNat * 2 ^ 64 + lo.toNat =
      (divide128By64 hi lo d).1.toNat * d.toNat + (divide128By64 hi lo d).2.toNat ∧
    (divide128By64 hi lo d).2.toNat < d.toNat := by
  have hd : 0 < d.toNat := by omega
  have hlt : hi.toNat * 2 ^ 64 + lo.toNat < d.toNat * 2 ^ 64 := by
    have := lo.isLt; omega
  have hrem := Nat.mod_lt (hi.toNat * 2 ^ 64 + lo.toNat) hd
  have hq : (divide128By64 hi lo d).1.toNat = (hi.toNat * 2 ^ 64 + lo.toNat) / d.toNat := by
    rw [divide128By64, toNat_lo64, BitVec.toNat_udiv, toNat_combine, toNat_zeroExtend_word,
      Nat.mod_eq_of_lt (Nat.div_lt_of_lt_mul hlt)]
  have hr : (divide128By64 hi lo d).2.toNat = (hi.toNat * 2 ^ 64 + lo.toNat) % d.toNat := by
    rw [divide128By64, toNat_lo64, BitVec.toNat_umod, toNat_combine, toNat_zeroExtend_word,
      Nat.mod_eq_of_lt (hrem.trans d.isLt)]
  rw [hq, hr]
  exact ⟨(Nat.div_add_mod' _ _).symm, hrem⟩

/-- Two divisions, the remainder of the first the high word of the second (90 C3). -/
theorem udiv_spec {hi lo d : Word} (h : d ≠ 0) :
    hi.toNat * 2 ^ 64 + lo.toNat =
      ((udiv hi lo d).2.1.toNat * 2 ^ 64 + (udiv hi lo d).1.toNat) * d.toNat +
        (udiv hi lo d).2.2.toNat ∧
    (udiv hi lo d).2.2.toNat < d.toNat := by
  have hd : (0 : Word).toNat < d.toNat := toNat_pos_of_ne_zero h
  obtain ⟨hhigh, hrem⟩ := divide128By64_spec (lo := hi) hd
  obtain ⟨hlow, hrem'⟩ := divide128By64_spec (lo := lo) hrem
  refine ⟨?_, hrem'⟩
  simp only [udiv]
  rw [add_mul, add_assoc, ← hlow]
  have hz : (0 : Word).toNat = 0 := rfl
  linarith

theorem div128w_spec {n d : DWord} (h : d ≠ 0) :
    n.toNat = (div128w n d).1.toNat * d.toNat + (div128w n d).2.toNat ∧
    (div128w n d).2.toNat < d.toNat := by
  have hd : 0 < d.toNat := toNat_pos_of_ne_zero h
  rw [div128w, BitVec.toNat_udiv, BitVec.toNat_umod]
  exact ⟨(Nat.div_add_mod' _ _).symm, Nat.mod_lt _ hd⟩

/-! ### The square root (R63)

Before the loop handles the digit of weight `2 ^ (k - 1)`, the root `r` found so far is right down
to the digit of weight `2 ^ k`: `r * r ≤ n < (r + 2 ^ k) * (r + 2 ^ k)`. The running remainder is
`n - r * r` and the running result `r * 2 ^ k`; `bit` is `4 ^ (k - 1)`, and 0 once no digit is
left. -/

theorem four_pow_succ_div (k : Nat) : 4 ^ (k + 1) / 4 = 4 ^ k := by
  rw [pow_succ, Nat.mul_div_cancel _ (by decide)]

theorem sqrtLoop_eq_sqrt {fuel k rem r n : Nat} (hf : k ≤ fuel) (hn : r * r + rem = n)
    (hlt : n < (r + 2 ^ k) * (r + 2 ^ k)) :
    sqrtLoop fuel (4 ^ k / 4) rem (r * 2 ^ k) = Nat.sqrt n := by
  induction k generalizing fuel rem r with
  | zero =>
    have hroot : r = Nat.sqrt n := Nat.eq_sqrt.mpr ⟨by omega, by simpa using hlt⟩
    cases fuel <;> simp [sqrtLoop, hroot]
  | succ k ih =>
    obtain ⟨fuel, rfl⟩ : ∃ f, fuel = f + 1 := ⟨fuel - 1, by omega⟩
    have hbit : (4 : Nat) ^ k = 2 ^ k * 2 ^ k := mul_pow 2 2 k
    have hpos : 0 < 2 ^ k := Nat.two_pow_pos k
    have htry : r * 2 ^ (k + 1) + 4 ^ k = 2 * (r * 2 ^ k) + 2 ^ k * 2 ^ k := by
      rw [hbit, pow_succ]; ring
    have hhalf : r * 2 ^ (k + 1) / 2 = r * 2 ^ k := by
      rw [pow_succ, ← mul_assoc, Nat.mul_div_cancel _ (by decide)]
    have hsq : (r + 2 ^ k) * (r + 2 ^ k) = r * r + (2 * (r * 2 ^ k) + 2 ^ k * 2 ^ k) := by ring
    rw [sqrtLoop, four_pow_succ_div, if_neg (by positivity), htry, hhalf]
    split
    · next hle =>
      have hres : r * 2 ^ k + 4 ^ k = (r + 2 ^ k) * 2 ^ k := by rw [hbit]; ring
      rw [hres]
      refine ih (by omega) (by omega) ?_
      have hstep : r + 2 ^ (k + 1) = r + 2 ^ k + 2 ^ k := by rw [pow_succ]; ring
      rwa [hstep] at hlt
    · next hgt => exact ih (by omega) hn (by omega)

/-- The search for the first digit ends at a power of four with `n` below the next one. -/
theorem sqrtStart_spec {fuel k n : Nat} (hf : k ≤ fuel) (hn : n < 4 ^ k) :
    ∃ j ≤ k, sqrtStart fuel (4 ^ k / 4) n = 4 ^ j / 4 ∧ n < 4 ^ j := by
  induction fuel generalizing k with
  | zero => exact ⟨k, le_rfl, rfl, hn⟩
  | succ fuel ih =>
    rw [sqrtStart]
    split
    · next hlt =>
      cases k with
      | zero => simp at hlt
      | succ k =>
        rw [four_pow_succ_div] at hlt ⊢
        obtain ⟨j, hj, he, hnj⟩ := ih (by omega) hlt
        exact ⟨j, by omega, he, hnj⟩
    · exact ⟨k, le_rfl, rfl, hn⟩

theorem toNat_integerSqrt (n : Word) : (integerSqrt n).toNat = Nat.sqrt n.toNat := by
  obtain ⟨k, hk, he, hn⟩ := sqrtStart_spec (fuel := 32) (k := 32) (n := n.toNat) le_rfl n.isLt
  have hloop : sqrtLoop 32 (4 ^ k / 4) n.toNat (0 * 2 ^ k) = Nat.sqrt n.toNat :=
    sqrtLoop_eq_sqrt hk (by omega) (by rwa [zero_add, ← mul_pow])
  have hstart : sqrtStart 32 (2 ^ 62) n.toNat = 4 ^ k / 4 := he
  rw [zero_mul] at hloop
  rw [integerSqrt, hstart, hloop, BitVec.toNat_ofNat,
    Nat.mod_eq_of_lt ((Nat.sqrt_le_self _).trans_lt n.isLt)]

theorem integerSqrt_sq_le (n : Word) :
    (integerSqrt n).toNat * (integerSqrt n).toNat ≤ n.toNat := by
  rw [toNat_integerSqrt]; exact Nat.sqrt_le _

theorem lt_succ_integerSqrt_sq (n : Word) :
    n.toNat < ((integerSqrt n).toNat + 1) * ((integerSqrt n).toNat + 1) := by
  rw [toNat_integerSqrt]; exact Nat.lt_succ_sqrt _

theorem integerSqrt_lt (n : Word) : (integerSqrt n).toNat < 2 ^ 32 := by
  rw [toNat_integerSqrt, Nat.sqrt_lt']
  have := n.isLt
  omega

/-- What ISQRT leaves in Y2 is `n - root * root`, without a borrow. -/
theorem toNat_sub_integerSqrt_sq (n : Word) :
    (n - integerSqrt n * integerSqrt n).toNat =
      n.toNat - (integerSqrt n).toNat * (integerSqrt n).toNat := by
  have hle := integerSqrt_sq_le n
  have hmul : (integerSqrt n * integerSqrt n).toNat =
      (integerSqrt n).toNat * (integerSqrt n).toNat := by
    rw [BitVec.toNat_mul, Nat.mod_eq_of_lt (hle.trans_lt n.isLt)]
  rw [BitVec.toNat_sub_of_le (by rwa [BitVec.le_def, hmul]), hmul]

/-! ### The completion steps -/

/-- Settles O13: NOP has no check and an empty effect. -/
theorem nopCompletes : Obligations.NopCompletes := fun _ h => exec_complete h rfl

/-- Settles O15: the effects are the rotates, which are the rotations of a word. -/
theorem rotatesComplete : Obligations.RotatesComplete := by
  intro s
  rw [← rotl64_eq_rotateLeft, ← rotr64_eq_rotateRight]
  exact ⟨fun h => exec_complete h rfl, fun h => exec_complete h rfl⟩

theorem commandCheck_div128 {s : State} (h : x0 s < x2 s) : commandCheck .div128 s = none := by
  have hz : x2 s ≠ 0 := by rintro e; rw [e] at h; exact BitVec.not_lt_zero h
  simp only [commandCheck, if_neg hz, if_neg (BitVec.not_le.mpr h)]

theorem commandCheck_udiv {s : State} (h : x2 s ≠ 0) : commandCheck .udiv s = none := by
  simp only [commandCheck, if_neg h]

theorem commandCheck_divw {s : State} (h : combine (x2 s) (x3 s) ≠ 0) :
    commandCheck .divw s = none := by
  simp only [commandCheck, if_neg h]

/-- Settles O16: the check passes, and the division is that of R61. -/
theorem div128Completes : Obligations.Div128Completes := by
  intro s hi _ hlt
  exact ⟨_, _, exec_complete hi (commandCheck_div128 hlt), divide128By64_spec hlt⟩

/-- Settles O17: the check passes, and the two divisions make the one of R62. -/
theorem udivCompletes : Obligations.UdivCompletes := by
  intro s hi hd
  exact ⟨_, _, _, exec_complete hi (commandCheck_udiv hd), udiv_spec hd⟩

/-- Settles O19: the loop finds the floor square root, so that what is left is not negative. -/
theorem isqrtCompletes : Obligations.IsqrtCompletes := by
  intro s hi
  refine ⟨integerSqrt (x0 s), x0 s - integerSqrt (x0 s) * integerSqrt (x0 s),
    exec_complete hi rfl, ?_, lt_succ_integerSqrt_sq _, integerSqrt_lt _⟩
  rw [toNat_sub_integerSqrt_sq, Nat.add_sub_cancel' (integerSqrt_sq_le _)]

/-- Settles O20: the two words are the halves of the product. -/
theorem multipliesComplete : Obligations.MultipliesComplete := by
  refine fun s => ⟨fun hi => ⟨_, _, exec_complete hi rfl, ?_⟩,
    fun hi => ⟨_, _, exec_complete hi rfl, ?_⟩⟩
  · rw [hi64_lo64, toNat_mul128x64]
  · rw [hi64_lo64, toNat_mul128x128]

/-- Settles O21: the four words are the halves of the quotient and the remainder of R65. -/
theorem divwCompletes : Obligations.DivwCompletes := by
  intro s hi hz
  have hd : combine (x2 s) (x3 s) ≠ 0 := mt (combine_eq_zero _ _).mp hz
  refine ⟨_, _, _, _, exec_complete hi (commandCheck_divw hd), ?_⟩
  rw [hi64_lo64, hi64_lo64, ← toNat_combine, ← toNat_combine]
  exact div128w_spec hd

end Sys2Proof.Machine

/-!
PROOFS. The statements of 10_state.md, third part: what the pipeline commands leave in the scratch
memory and the digest (R29, R32; 42_keystream.md R100 to R106, 43_mixer.md R110 to R120,
44_finalizer.md R122, R123).
-/

namespace Sys2Proof.Machine

/-! ### The valid bits a command requires (60_exceptions.md R134) -/

theorem commandCheck_expand {s : State} (hi : inv s = true) (hs : skv s = true) :
    commandCheck .expand s = none := by simp [commandCheck, hi, hs]

theorem commandCheck_mixpass {s : State} (ha : akv s = true) (hp : spv s = true) :
    commandCheck .mixpass s = none := by simp [commandCheck, ha, hp]

theorem commandCheck_finalize {s : State} (hp : spv s = true) :
    commandCheck .finalize s = none := by simp [commandCheck, hp]

theorem commandCheck_hash {s : State} (hi : inv s = true) (hs : skv s = true) (ha : akv s = true) :
    commandCheck .hash s = none := by simp [commandCheck, hi, hs, ha]

theorem spv_iff {s : State} (hm : 0 < s.memWords) :
    spv s = true ↔ ∀ k < s.memWords, indexIn s.spW k = true := by
  have hne : (∀ k < s.memWords, indexIn s.spW k = true) → s.spW ≠ [] := by
    intro h he
    have := indexIn_iff.mp (h 0 hm)
    simp [he] at this
  simp only [spv, Bool.and_eq_true, Bool.not_eq_true', List.isEmpty_eq_false_iff, List.all_eq_true,
    List.mem_range]
  exact ⟨fun h => h.2, fun h => ⟨hne h, h⟩⟩

theorem spv_of_all_written {s : State} (hm : 0 < s.memWords) (h : s.spW = List.range s.memWords) :
    spv s = true :=
  (spv_iff hm).mpr fun k hk => by rw [h, indexIn_iff]; exact List.mem_range.mpr hk

/-! ### Stage 1: its bytes fill the scratch memory (R105 to R107) -/

theorem segmentStep_out_length (hash32 : List Byte → Vector Byte 32)
    (chaCha8 : List Byte → List Byte → (n : Nat) → Vector Byte n) (m : Nat) (km : List Byte)
    (st : Stage1State) (i : Nat) :
    (segmentStep hash32 chaCha8 m km st i).out.length = st.out.length + Config.segBytes m := by
  simp [segmentStep]

theorem segmentSteps_out_length (hash32 : List Byte → Vector Byte 32)
    (chaCha8 : List Byte → List Byte → (n : Nat) → Vector Byte n) (m : Nat) (km : List Byte)
    (is : List Nat) (st : Stage1State) :
    (is.foldl (segmentStep hash32 chaCha8 m km) st).out.length =
      st.out.length + is.length * Config.segBytes m := by
  induction is generalizing st with
  | nil => simp
  | cons i is ih =>
    rw [List.foldl_cons, ih, segmentStep_out_length, List.length_cons]; ring

theorem segBytes_four (m : Nat) : 4 * Config.segBytes m = Config.sizeBytes m := by
  unfold Config.segBytes Config.sizeBytes; omega

theorem stage1Bytes_length (hash32 : List Byte → Vector Byte 32)
    (chaCha8 : List Byte → List Byte → (n : Nat) → Vector Byte n) (m : Nat)
    (ib km nonce : List Byte) :
    (stage1Bytes hash32 chaCha8 m ib km nonce).length = Config.sizeBytes m := by
  rw [stage1Bytes, segmentSteps_out_length, List.length_range, segBytes_four]
  exact Nat.zero_add _

theorem wordsToBytes_stage1 (hash32 : List Byte → Vector Byte 32)
    (chaCha8 : List Byte → List Byte → (n : Nat) → Vector Byte n) (m : Nat)
    (ib km nonce : List Byte) :
    wordsToBytes (stage1 hash32 chaCha8 m ib km nonce) =
      stage1Bytes hash32 chaCha8 m ib km nonce :=
  wordsToBytes_bytesToWords _ _ (stage1Bytes_length _ _ _ _ _ _)

/-- Where the words of the scratch memory were laid out, its bytes are theirs. -/
theorem scratchBytes_ofWords {s : State} {ws : List Word}
    (h : s.scratch = Memory.ofBytes 0 (wordsToBytes ws)) (hl : ws.length = s.memWords) :
    scratchBytes s 0 (Config.sizeBytes s.memWords) = wordsToBytes ws := by
  have hn : (wordsToBytes ws).length = Config.sizeBytes s.memWords := by
    rw [wordsToBytes_length, hl]; rfl
  rw [scratchBytes_ofBytes h (by omega), ← hn]
  exact List.take_length

/-- Settles O30: the words laid out are Stage 1's, and all count as written. -/
theorem expandCompletes : Obligations.ExpandCompletes := by
  intro s hi hinv hskv hm
  refine ⟨retire (expandEffect s), exec_complete hi (commandCheck_expand hinv hskv), rfl, ?_,
    spv_of_all_written hm rfl⟩
  rw [← wordsToBytes_stage1]
  exact scratchBytes_ofWords (s := retire (expandEffect s)) rfl (stage1Of_length s)

/-! ### Stage 3: the rounds meet the relation of R112 to R120 -/

/-- What inner step `j` of round `i` starts from: the steps before it, one after the other. -/
def innerStepsFrom (m i : Nat) (st : MixState) (j : Nat) : MixState :=
  (List.range j).foldl (innerStep m i) st

theorem innerStepsFrom_succ (m i : Nat) (st : MixState) (j : Nat) :
    innerStepsFrom m i st (j + 1) = innerStep m i (innerStepsFrom m i st j) j := by
  simp [innerStepsFrom, List.range_succ]

theorem le64_unle64_slice {s : List Byte} (h : 8 ≤ s.length) :
    le64 (unle64 (slice s 0 8)) = s.take 8 :=
  le64_unle64 _ (slice_length _ _ _ (by omega))

theorem isOuterRound_outerRound (m i : Nat) (key : List Byte) (st : RoundState) :
    IsOuterRound m i key st (outerRound m key st i) :=
  ⟨_, _, _, innerStepsFrom m i { sp := st.sp, r := st.r, result := roundStart m key st },
    rfl, rfl, le64_unle64_slice (by simp), rfl, fun j _ => innerStepsFrom_succ _ _ _ j,
    rfl, rfl, rfl, rfl⟩

theorem isStageThree_stage3 (m : Nat) (key : List Byte) (sp : List Word) :
    IsStageThree m key sp (stage3 m sp key) :=
  ⟨mixStart m sp, _, _, _, rfl, isOuterRound_outerRound _ _ _ _, isOuterRound_outerRound _ _ _ _,
    isOuterRound_outerRound _ _ _ _, rfl⟩

/-- Settles O33: the words laid out are those of Stage 3, as many as before, and no written bit
changes. -/
theorem mixpassCompletes : Obligations.MixpassCompletes := by
  intro s hi hspv hakv
  have hwords : scratchWords (retire (mixpassEffect s)) =
      stage3 s.memWords (scratchWords s) (aesKey s) :=
    scratchWords_ofWords rfl (by simp [mixpassEffect])
  refine ⟨retire (mixpassEffect s), exec_complete hi (commandCheck_mixpass hakv hspv), rfl,
    hwords, ?_, hspv⟩
  rw [hwords]; exact isStageThree_stage3 _ _ _

/-! ### The digest (R122) -/

/-- The four digest registers hold the 32 bytes of the digest. -/
theorem wordsToBytes_writeDigest {d : List Byte} (h : d.length = 32) (s : State) :
    wordsToBytes (writeDigest d s).dg.toList = d :=
  wordsToBytes_bytesToWords 4 d h

/-- Settles O34: the digest written is that of the scratch bytes. -/
theorem finalizeCompletes : Obligations.FinalizeCompletes := fun s hi hspv =>
  ⟨_, exec_complete hi (commandCheck_finalize hspv), rfl,
    wordsToBytes_writeDigest (Vector.length_toList) s⟩

/-- Settles O35: the words laid out are those of Stage 3 on Stage 1's, and the digest is of their
bytes. -/
theorem hashCompletes : Obligations.HashCompletes := by
  intro s hi hinv hskv hakv
  have hwords : scratchWords (retire (hashEffect s)) = hashWords s :=
    scratchWords_ofWords rfl (hashWords_length s)
  refine ⟨retire (hashEffect s), exec_complete hi (commandCheck_hash hinv hskv hakv), rfl,
    hwords, ?_, ?_⟩
  · rw [hwords]; exact isStageThree_stage3 _ _ _
  · exact (wordsToBytes_writeDigest Vector.length_toList (writeScratchAll (hashWords s) s)).trans
      (congrArg (fun ws => (Config.hash32 (wordsToBytes ws)).toList) hwords.symm)

end Sys2Proof.Machine

/-!
PROOFS. The statements of 10_state.md, fourth part: the CSR map and what the registers read and
store (R16 to R31).
-/

namespace Sys2Proof.Machine

/-! ### The CSR map (R19) -/

@[simp] theorem csrAt_csrIndex (r : CsrReg) : csrAt (csrIndex r) = r := by
  cases r with
  | x n => revert n; decide
  | y n => revert n; decide
  | inp n => revert n; decide
  | sk n => revert n; decide
  | ak n => revert n; decide
  | dg n => revert n; decide
  | _ => rfl

/-! ### One access, where its outcome is fixed (20_memory.md R41, R42) -/

theorem csrRead_of_idle {s : State} (h : busy s = false) (idx : BitVec 7) :
    csrRead idx s = deliver (csrValue (csrAt idx) s) s := by simp [csrRead, h]

theorem csrRead_of_readable {idx : BitVec 7} (h : readableWhileBusy (csrAt idx) = true)
    (s : State) : csrRead idx s = deliver (csrValue (csrAt idx) s) s := by simp [csrRead, h]

theorem csrRead_of_busy {s : State} {idx : BitVec 7} (h : busy s = true)
    (hr : readableWhileBusy (csrAt idx) = false) :
    csrRead idx s = deliver 0 (raise .busyAccess (csrInfo false idx) s) := by simp [csrRead, h, hr]

theorem csrWrite_of_busy {s : State} {idx : BitVec 7} (h : busy s = true) (hc : csrAt idx ≠ .ctrl)
    (v : Word) : csrWrite idx v s = .next (raise .busyAccess (csrInfo true idx) s) := by
  simp [csrWrite, h, hc]

theorem csrWrite_ctrl {idx : BitVec 7} (h : csrAt idx = .ctrl) (v : Word) (s : State) :
    csrWrite idx v s = .next (writeCtrl v s) := by simp [csrWrite, h]

theorem csrWrite_cmd {s : State} (h : busy s = false) (w : Word) :
    csrWrite cmdIndex w s = writeCmd w s := by simp [csrWrite, h]

theorem csrWrite_of_idle {s : State} {idx : BitVec 7} (h : busy s = false) (hm : csrAt idx ≠ .cmd)
    (hc : csrAt idx ≠ .ctrl) (v : Word) :
    csrWrite idx v s = .next (storeCsr (csrAt idx) v s) := by
  rcases csrWrite_cases idx v s with ⟨hb, _⟩ | ⟨_, e, _⟩ | ⟨e, _⟩ | ⟨_, _, _, e⟩
  · simp [h] at hb
  · exact absurd e hm
  · exact absurd e hc
  · exact e

/-- A read of a register on an idle block, by the register's name. -/
theorem csrRead_reg {s : State} (r : CsrReg) (h : busy s = false) :
    csrRead (csrIndex r) s = deliver (csrValue r s) s := by
  rw [csrRead_of_idle h, csrAt_csrIndex]

/-- A write to a register that is neither CMD nor CTRL, by the register's name. -/
theorem csrWrite_reg {s : State} (r : CsrReg) (h : busy s = false) (hm : r ≠ .cmd)
    (hc : r ≠ .ctrl) (v : Word) : csrWrite (csrIndex r) v s = .next (storeCsr r v s) := by
  rw [csrWrite_of_idle h, csrAt_csrIndex] <;> rwa [csrAt_csrIndex]

/-! ### The values of CTRL (R23) and NONCE0_HI (R25) -/

theorem ctrlWord_eq (s : State) : ctrlWord s = if s.ie then 2 else 0 := by
  cases h : s.ie <;> simp [ctrlWord, h]

theorem getLsbD_ctrlWord (s : State) (b : Nat) :
    (ctrlWord s).getLsbD b = (decide (b = 1) && s.ie) := by
  simp only [ctrlWord, BitVec.getLsbD_append, BitVec.getLsbD_ofBool]
  match b with
  | 0 => simp
  | 1 => simp
  | b + 2 => simp

theorem zeroExtend_eq_append (x : BitVec 32) : x.zeroExtend 64 = 0#32 ++ x := by
  apply BitVec.eq_of_toNat_eq
  rw [BitVec.toNat_append, BitVec.toNat_setWidth, Nat.mod_eq_of_lt (by omega)]
  simp

/-- Settles O41: the map is checked index by index, and the reads follow from it. -/
theorem csrMapAndReads : Obligations.CsrMapAndReads := by
  refine ⟨csrAt_csrIndex, rfl, rfl, rfl, rfl, rfl, rfl, rfl, by decide, by decide, by decide,
    by decide, by decide, by decide, by decide,
    fun s => ⟨csrRead_of_readable rfl s, csrRead_of_readable rfl s, csrRead_of_readable rfl s, ?_⟩,
    fun s h => ⟨csrRead_of_idle h _, csrRead_of_idle h _, ?_, fun n => csrRead_reg (.x n) h,
      fun n => csrRead_reg (.y n) h, fun n => csrRead_reg (.inp n) h,
      fun n => csrRead_reg (.sk n) h, fun n => csrRead_reg (.ak n) h,
      fun n => csrRead_reg (.dg n) h, fun idx hr => ?_⟩⟩
  · rw [← ctrlWord_eq]; exact csrRead_of_readable rfl s
  · rw [← zeroExtend_eq_append]; exact csrRead_of_idle h _
  · rw [csrRead_of_idle h, hr]; rfl

/-! ### What a register write stores (R31, R42) -/

theorem getElem_set_of_ne {α : Type} {n : Nat} (xs : Vector α n) {j k : Fin n} (h : k ≠ j)
    (v : α) : (xs.set j v)[k] = xs[k] := by rw [getElem_set_fin, if_neg h]

/-- A written register reads back, where it is one that only stores. -/
theorem csrValue_storeCsr_same {r : CsrReg} (v : Word) (s : State)
    (hr : (∃ n, r = .x n) ∨ r = .nonceLo ∨ (∃ n, r = .inp n) ∨ (∃ n, r = .sk n) ∨
      ∃ n, r = .ak n) : csrValue r (storeCsr r v s) = v := by
  rcases hr with ⟨n, rfl⟩ | rfl | ⟨n, rfl⟩ | ⟨n, rfl⟩ | ⟨n, rfl⟩ <;> simp [csrValue, storeCsr]

theorem csrValue_storeCsr_other {r r' : CsrReg} (v : Word) (s : State) (hne : r' ≠ r)
    (hst : r' ≠ .status) : csrValue r' (storeCsr r v s) = csrValue r' s := by
  cases r
  case x n | inp n | sk n | ak n =>
    -- a register of the same vector is another one of it; any other one is no part of the update
    cases r' <;> first
      | exact getElem_set_of_ne _ (fun e => hne (congrArg _ e)) v
      | exact absurd rfl hst
      | rfl
  case nonceLo | nonceHi => cases r' <;> first | rfl | exact absurd rfl hst | exact absurd rfl hne
  all_goals rfl

/-- The registers that have a written bit (R31). -/
def hasWrittenBit (r : CsrReg) : Bool :=
  match r with
  | .inp _ | .sk _ | .ak _ => true
  | .caps | .status | .cmd | .ctrl | .errinfo | .nonceLo | .nonceHi | .x _ | .y _ | .dg _ => false
  | .reserved => false

/-- The written bit of a register, where it has one. -/
def writtenBit (r : CsrReg) (s : State) : Bool :=
  match r with
  | .inp n => s.inW[n]
  | .sk n => s.skW[n]
  | .ak n => s.akW[n]
  | .caps | .status | .cmd | .ctrl | .errinfo | .nonceLo | .nonceHi | .x _ | .y _ | .dg _ => false
  | .reserved => false

theorem writtenBit_storeCsr_same {r : CsrReg} (hr : hasWrittenBit r = true) (v : Word)
    (s : State) : writtenBit r (storeCsr r v s) = true := by
  cases r
  case inp n | sk n | ak n => simp [writtenBit, storeCsr]
  all_goals exact absurd hr nofun

theorem writtenBit_storeCsr_other {r r' : CsrReg} (hne : r' ≠ r) (v : Word) (s : State) :
    writtenBit r' (storeCsr r v s) = writtenBit r' s := by
  cases r
  case inp n | sk n | ak n =>
    cases r' <;> first
      | rfl
      | exact getElem_set_of_ne _ (fun e => hne (congrArg _ e)) true
  all_goals cases r' <;> rfl

/-- A register write sets the register's own written bit and no other. -/
theorem writtenBit_storeCsr {r : CsrReg} (hr : hasWrittenBit r = true) (r' : CsrReg) (v : Word)
    (s : State) : writtenBit r (storeCsr r' v s) = (writtenBit r s || decide (r' = r)) := by
  by_cases h : r' = r
  · rw [h, writtenBit_storeCsr_same hr]; simp
  · rw [writtenBit_storeCsr_other (Ne.symm h)]; simp [h]

/-- Settles O42: each of these registers only stores. -/
theorem registerWriteReadsBack : Obligations.RegisterWriteReadsBack := by
  intro s r v hi hr
  have hb : busy s = false := (busy_eq_false_iff s).mpr hi
  have hb' : busy (storeCsr r v s) = false := by simp [busy, hi]
  refine ⟨storeCsr r v s, ?_, ?_, fun r' => csrValue_storeCsr_other v s,
    fun n => writtenBit_storeCsr (r := .inp n) rfl r v s,
    fun n => writtenBit_storeCsr (r := .sk n) rfl r v s,
    fun n => writtenBit_storeCsr (r := .ak n) rfl r v s, ?_⟩
  · obtain ⟨hm, hc⟩ : r ≠ .cmd ∧ r ≠ .ctrl := by
      rcases hr with ⟨n, rfl⟩ | rfl | ⟨n, rfl⟩ | ⟨n, rfl⟩ | ⟨n, rfl⟩ <;> exact ⟨nofun, nofun⟩
    exact csrWrite_reg r hb hm hc v
  · rw [csrRead_reg r hb', csrValue_storeCsr_same v s hr]
  · rcases hr with ⟨n, rfl⟩ | rfl | ⟨n, rfl⟩ | ⟨n, rfl⟩ | ⟨n, rfl⟩ <;> rfl

/-! ### The byte strings of the nonce and data registers (R25 to R28, R102) -/

/-- Byte `n` of a list of words is byte `n % 8` of word `n / 8`. -/
theorem getElem?_wordsToBytes_vector {k : Nat} (ws : Vector Word k) {n : Nat} (h : n / 8 < k) :
    (wordsToBytes ws.toList)[n]? = some (ws[n / 8].extractLsb' (8 * (n % 8)) 8) := by
  have hn : n % 8 < 8 := Nat.mod_lt _ (by decide)
  have hk : n / 8 < ws.toList.length := by simpa using h
  have he : 8 * (n / 8) + n % 8 = n := Nat.div_add_mod n 8
  have hword : (wordsToBytes ws.toList)[n]? = (le64 ws.toList[n / 8])[n % 8]? := by
    rw [← getElem?_wordsToBytes _ _ _ hn hk, he]
  rw [hword, getElem?_of_lt (by simpa using hn), byteAt_le64 _ _ hn, Vector.getElem_toList, leByte]

@[simp] theorem keyMaterial_length (s : State) : (keyMaterial s).length = 128 := by
  simp [keyMaterial]

theorem nonce0_length (s : State) : (nonce0 s).length = 12 := by
  simp [nonce0, slice]

/-- Settles O43: the strings are the bytes of their registers, in order. -/
theorem nonceAndDataBytes : Obligations.NonceAndDataBytes := by
  refine ⟨fun _ => rfl, nonce0_length, fun s v hi => ?_, fun s => ?_, by decide,
    fun s => ⟨by simp [inputBlock], keyMaterial_length s, by simp [aesKey]⟩,
    fun s n h => getElem?_wordsToBytes_vector s.inp (by omega),
    fun s n h => getElem?_wordsToBytes_vector s.sk (by omega),
    fun s n h => getElem?_wordsToBytes_vector s.ak (by omega),
    fun s i hi => ⟨slice_length _ _ _ (by rw [keyMaterial_length]; omega),
      fun n hn => getElem?_slice _ _ _ _ hn⟩⟩
  · have hb : busy s = false := (busy_eq_false_iff s).mpr hi
    exact ⟨csrWrite_reg .nonceLo hb nofun nofun v, csrWrite_reg .nonceHi hb nofun nofun v⟩
  · simp only [csrValue, zeroExtend_eq_append]
    exact ⟨BitVec.extractLsb'_append_eq_left, BitVec.extractLsb'_append_eq_right⟩

/-! ### Registers that store nothing (R20, R30), and CTRL (R23) -/

/-- Settles O44: such a write stores nothing, and a busy block refuses it. -/
theorem readOnlyAndReservedIgnoreWrites : Obligations.ReadOnlyAndReservedIgnoreWrites := by
  refine ⟨fun s idx hb hr => ?_, fun s idx v hb hr => ?_, fun s idx v hb hr => ⟨?_, fun h => ?_⟩⟩
  · rw [csrRead_of_idle hb, hr]; rfl
  · have hc : csrAt idx ≠ .cmd ∧ csrAt idx ≠ .ctrl ∧ storeCsr (csrAt idx) v s = s := by
      rcases hr with e | e | e | e | ⟨n, e⟩ | ⟨n, e⟩ <;> rw [e] <;> exact ⟨nofun, nofun, rfl⟩
    rw [csrWrite_of_idle hb hc.1 hc.2.1, hc.2.2]
  · have hc : csrAt idx ≠ .ctrl := by
      rcases hr with e | e | e | e | ⟨n, e⟩ | ⟨n, e⟩ <;> rw [e] <;> exact nofun
    exact csrWrite_of_busy hb hc v
  · exact csrRead_of_busy hb (by rw [h]; rfl)

/-- Settles O45: the two cases of a CTRL write, and the one bit CTRL holds. -/
theorem ctrlWriteEffects : Obligations.CtrlWriteEffects := by
  intro s v
  refine ⟨fun h => ⟨?_, rfl⟩, fun h => ?_, fun b hb => ?_⟩
  · rw [csrWrite_ctrl rfl, writeCtrl, if_pos h]
  · rw [csrWrite_ctrl rfl, writeCtrl, if_neg (ne_true_of_eq_false h)]
    cases v.getLsbD 2 <;> simp
  · exact getLsbD_ctrlWord s b

/-- Settles O47: the fields are the parts CAPS is put together from, and only `M` is the state's. -/
theorem capsIsConstant : Obligations.CapsIsConstant := by
  intro s hm
  obtain ⟨_, _, hlt⟩ := (validSize_iff _).mp hm
  refine ⟨?_, caps_iters s, ?_, ?_, csrRead_of_readable rfl s, rfl, rfl,
    fun v hb => csrWrite_reg .caps hb nofun nofun v⟩
  · rw [caps_memWords, BitVec.toNat_ofNat, Nat.mod_eq_of_lt hlt]
  · simp only [caps, BitVec.extractLsb'_append_eq_ite]
    simp [Config.version]
  · simp only [caps, BitVec.extractLsb'_append_eq_ite]
    simp

end Sys2Proof.Machine

/-!
PROOFS. The statements of 10_state.md, fifth part: STATUS, ERRINFO and the state after reset (R21,
R24, R34, R35), scratch words (R31), and what each event may change (R14, R18, R31, R32).
-/

namespace Sys2Proof.Machine

/-! ### STATUS and the interrupt output (R21, R34) -/

theorem all_id_toList {n : Nat} (bits : Vector Bool n) :
    bits.toList.all id = true ↔ ∀ k : Fin n, bits[k] = true := by
  simp [Fin.forall_iff]

theorem irq_iff (s : State) : irq s = true ↔ s.ie = true ∧ (s.done = true ∨ s.fault ≠ none) := by
  simp [irq, faulted, Option.isSome_iff_ne_none]

/-- The single bits of STATUS, bit 0 first. -/
theorem getLsbD_status (s : State) :
    (status s).getLsbD 0 = busy s ∧ (status s).getLsbD 1 = s.done ∧
    (status s).getLsbD 2 = faulted s ∧ (status s).getLsbD 3 = irq s ∧
    (status s).getLsbD 8 = inv s ∧ (status s).getLsbD 9 = skv s ∧
    (status s).getLsbD 10 = akv s ∧ (status s).getLsbD 11 = spv s ∧
    (status s).getLsbD 12 = s.dgv := by
  simp only [status, BitVec.getLsbD_append]
  simp

theorem status_fcode (s : State) : (status s).extractLsb' 4 4 = fcode s := by
  simp only [status, BitVec.extractLsb'_append_eq_of_le, BitVec.extractLsb'_append_eq_right,
    Nat.reduceLeDiff, Nat.reduceSub]

theorem status_unused (s : State) : (status s).extractLsb' 13 51 = 0 := by
  simp only [status, BitVec.extractLsb'_append_eq_of_le, Nat.reduceLeDiff, Nat.reduceSub]
  simp

/-- Settles O46: the bits of STATUS, and each AND of written bits as a statement about them all. -/
theorem statusFields : Obligations.StatusFields := by
  intro s
  obtain ⟨hbusy, hdone, hfault, hirq, hinv, hskv, hakv, hspv, hdgv⟩ := getLsbD_status s
  exact ⟨hbusy, hdone, hfault, hirq, irq_iff s, status_fcode s, hinv, hskv, hakv, hspv, hdgv,
    status_unused s, all_id_toList _, all_id_toList _, all_id_toList _, spv_iff,
    csrRead_of_readable rfl s⟩

/-! ### The words ERRINFO records (R24, R132) -/

theorem commandInfo_fields (w : Word) (s : State) :
    (commandInfo w s).extractLsb' 0 8 = w.extractLsb' 0 8 ∧
    (commandInfo w s).extractLsb' 8 4 = w.extractLsb' 8 4 ∧
    (commandInfo w s).extractLsb' 12 4 = 0 ∧
    (commandInfo w s).extractLsb' 16 8 = validBits s ∧
    (commandInfo w s).extractLsb' 24 40 = 0 := by
  simp only [commandInfo, BitVec.extractLsb'_append_eq_of_le, BitVec.extractLsb'_append_eq_right,
    Nat.reduceLeDiff, Nat.reduceSub]
  simp

theorem csrInfo_fields (write : Bool) (idx : BitVec 7) :
    (csrInfo write idx).extractLsb' 0 12 = 0 ∧
    (csrInfo write idx).extractLsb' 16 8 = idx.zeroExtend 8 ∧
    (csrInfo write idx).extractLsb' 24 40 = 0 := by
  simp only [csrInfo, BitVec.extractLsb'_append_eq_of_le, BitVec.extractLsb'_append_eq_right,
    Nat.reduceLeDiff, Nat.reduceSub]
  simp

theorem csrInfo_bits (write : Bool) (idx : BitVec 7) :
    (csrInfo write idx).getLsbD 12 = true ∧ (csrInfo write idx).getLsbD 13 = false ∧
    (csrInfo write idx).getLsbD 14 = write ∧ (csrInfo write idx).getLsbD 15 = false := by
  simp only [csrInfo, BitVec.getLsbD_append]
  simp

theorem spmInfo_fields (write : Bool) (k : BitVec 32) :
    (spmInfo write k).extractLsb' 0 12 = 0 ∧ (spmInfo write k).extractLsb' 15 17 = 0 ∧
    (spmInfo write k).extractLsb' 32 32 = k := by
  simp only [spmInfo, BitVec.extractLsb'_append_eq_ite]
  simp

theorem spmInfo_bits (write : Bool) (k : BitVec 32) :
    (spmInfo write k).getLsbD 12 = true ∧ (spmInfo write k).getLsbD 13 = true ∧
    (spmInfo write k).getLsbD 14 = write := by
  simp only [spmInfo, BitVec.getLsbD_append]
  simp

/-- Settles O12: the fields are the parts the three words are put together from. -/
theorem faultRecordFields : Obligations.FaultRecordFields := by
  refine ⟨fun s h => by rw [fcode, h], fun s f h => by rw [fcode, h], rfl, rfl, rfl, rfl, rfl, rfl,
    commandInfo_fields, fun write idx => ?_, fun write k => ?_⟩
  · obtain ⟨hlow, hidx, hhigh⟩ := csrInfo_fields write idx
    obtain ⟨hhost, hspace, hwrite, hzero⟩ := csrInfo_bits write idx
    refine ⟨hlow, hhost, hspace, hwrite, hzero, ?_, hhigh⟩
    rw [hidx, BitVec.toNat_setWidth]
    omega
  · obtain ⟨hlow, hzero, hidx⟩ := spmInfo_fields write k
    obtain ⟨hhost, hspace, hwrite⟩ := spmInfo_bits write k
    exact ⟨hlow, hhost, hspace, hwrite, hzero, hidx⟩

/-! ### The state after reset (R35) -/

/-- Settles O56: every field is the one `State.resetOf` gives, and `M` is a legal size. -/
theorem resetState : Obligations.ResetState := by
  refine ⟨?_, ?_, ?_, ?_, ?_, ?_, fun _ => rfl, rfl, rfl, rfl, rfl, rfl, rfl, rfl,
    validSize_memWords, rfl, rfl⟩ <;> intro n <;> simp [State.reset, State.resetOf]

/-! ### Scratch words (20_memory.md R43, R44) -/

theorem spmWrite_in_range {s : State} {k : BitVec 32} (hb : busy s = false)
    (hk : k.toNat < s.memWords) (v : Word) : spmWrite k v s = writeScratchWord k.toNat v s := by
  simp [spmWrite, hb, hk]

theorem spmRead_written {s : State} {k : BitVec 32} (hb : busy s = false)
    (hk : k.toNat < s.memWords) (hw : indexIn s.spW k.toNat = true) :
    spmRead k s = deliver (scratchWord s k.toNat) s := by
  simp [spmRead, hb, hk, hw]

theorem spmRead_unwritten {s : State} {k : BitVec 32} (hb : busy s = false)
    (hk : k.toNat < s.memWords) (hw : indexIn s.spW k.toNat = false) :
    spmRead k s = deliver (Config.unwrittenRead s.freeReads) (countFreeRead s) := by
  simp [spmRead, hb, hk, hw]

/-- The word written reads back. -/
theorem scratchWord_writeScratchWord (k : Nat) (v : Word) (s : State) :
    scratchWord (writeScratchWord k v s) k = v := by
  have hbytes : scratchBytes (writeScratchWord k v s) (8 * k) 8 = le64 v := by
    apply List.ext_getElem (by simp [scratchBytes])
    intro i _ hi
    simp [scratchBytes, scratchByte, Memory.read_writeBytes, List.getElem?_eq_getElem hi]
  rw [scratchWord, hbytes, unle64_le64]

theorem read_writeScratchWord_outside {k a : Nat} (h : a < 8 * k ∨ 8 * k + 8 ≤ a) (v : Word)
    (s : State) :
    Memory.read (writeScratchWord k v s).scratch a = Memory.read s.scratch a := by
  rw [writeScratchWord_scratch, Memory.read_writeBytes]
  split
  · rw [List.getElem?_eq_none (by rw [le64_length]; omega), Option.none_or]
  · rfl

/-- Settles O49: the write makes its word a written one, and only its eight bytes change. -/
theorem scratchReadsAndWrites : Obligations.ScratchReadsAndWrites := by
  intro s k hi hk
  have hb : busy s = false := (busy_eq_false_iff s).mpr hi
  refine ⟨fun v => ⟨writeScratchWord k.toNat v s, ?_, ?_, rfl, fun j => ?_,
    fun a ha => read_writeScratchWord_outside ha v s⟩, fun hw => ?_, fun hw => ?_⟩
  · rw [hostAccess, spmWrite_in_range hb hk]
  · have hb' : busy (writeScratchWord k.toNat v s) = false := hb
    rw [hostAccess, spmRead_written hb' hk (by simp), scratchWord_writeScratchWord]
    rfl
  · rw [writeScratchWord_spW, indexIn_indexInsert, Bool.or_comm]
  · rw [hostAccess, spmRead_written hb hk hw]; rfl
  · rw [hostAccess, spmRead_unwritten hb hk hw]; rfl

/-- Settles O51: byte `a` lies in word `a / 8`, which is a written word, and a written word's bytes
are listed. -/
theorem spvMeansNoUnknownByte : Obligations.SpvMeansNoUnknownByte := by
  intro s h hspv a ha
  have hk : a / 8 < s.memWords := by unfold Config.sizeBytes at ha; omega
  have hw : a / 8 ∈ s.spW := indexIn_iff.mp ((spv_iff (by omega)).mp hspv _ hk)
  have hl := h.spListed _ hw (a % 8) (Nat.mod_lt _ (by decide))
  rw [Nat.div_add_mod] at hl
  obtain ⟨b, hread⟩ := Option.isSome_iff_exists.mp hl
  rw [scratchByte, hread, Option.getD_some]

/-! ### Completion steps (R32) -/

theorem unitTurn_next_inflight {i : Instr} {s t : State} (hi : s.inflight = some i)
    (h : unitTurn s = .next t) : t = retire (effectOf i s) :=
  (exec_next_inflight hi (unitTurn_of_inflight hi ▸ h)).2

/-- Everything the unit's turn can do where it answers a next state (R159, R160). -/
theorem unitTurn_next_cases {s t : State} (h : unitTurn s = .next t) :
    (s.inflight = none ∧ t = s) ∨ ∃ i, s.inflight = some i ∧ t = retire (effectOf i s) := by
  cases hi : s.inflight with
  | none => rw [unitTurn_of_idle hi] at h; cases h; exact .inl ⟨rfl, rfl⟩
  | some i => exact .inr ⟨i, rfl, unitTurn_next_inflight hi h⟩

/-- Only EXPAND and HASH set written bits of scratch words, and they set them all. -/
theorem effectOf_spW (i : Instr) (s : State) :
    (effectOf i s).spW = if i = .expand ∨ i = .hash then List.range s.memWords else s.spW := by
  cases i <;> rfl

/-- Settles O52: a completion step is the command's effect and the retirement. -/
theorem completionFrame : Obligations.CompletionFrame := by
  intro i s t hi h
  obtain rfl := unitTurn_next_inflight hi h
  exact ⟨rfl, rfl, effectOf_x i s, effectOf_ie i s, effectOf_fault i s, effectOf_errInfo i s,
    effectOf_nonceLo i s, effectOf_nonceHi i s, effectOf_inp i s, effectOf_sk i s, effectOf_ak i s,
    effectOf_inW i s, effectOf_skW i s, effectOf_akW i s, effectOf_agenda i s,
    effectOf_returned i s, effectOf_freeReads i s, effectOf_y i s, effectOf_scratch i s,
    effectOf_dg i s⟩

/-! ### Host accesses -/

/-- `t` differs from `s` at most in STATUS, CTRL, ERRINFO, the command in flight, and what the host
has read. -/
structure KeepsData (s t : State) : Prop where
  x : t.x = s.x
  y : t.y = s.y
  dgv : t.dgv = s.dgv
  dg : t.dg = s.dg
  nonceLo : t.nonceLo = s.nonceLo
  nonceHi : t.nonceHi = s.nonceHi
  inp : t.inp = s.inp
  sk : t.sk = s.sk
  ak : t.ak = s.ak
  inW : t.inW = s.inW
  skW : t.skW = s.skW
  akW : t.akW = s.akW
  scratch : t.scratch = s.scratch
  spW : t.spW = s.spW
  agenda : t.agenda = s.agenda

theorem keepsData_raise (f : FaultCode) (w : Word) (s : State) : KeepsData s (raise f w s) := by
  constructor <;> simp

theorem keepsData_submit (w : Word) (cmd : Option Instr) (check : Option FaultCode) (s : State) :
    KeepsData s (submit w cmd check s) := by
  rcases submit_cases w cmd check s with
    ⟨_, e⟩ | ⟨_, _, e⟩ | ⟨_, _, ⟨_, e⟩ | ⟨_, _, _, _, e⟩ | ⟨_, _, _, e⟩⟩ <;>
    rw [e] <;> constructor <;> simp

theorem keepsData_csrRead (idx : BitVec 7) (s : State) : KeepsData s (csrRead idx s) := by
  rcases csrRead_cases idx s with ⟨_, _, e⟩ | ⟨_, e⟩ <;> rw [e] <;> constructor <;> simp

theorem keepsData_spmRead (k : BitVec 32) (s : State) : KeepsData s (spmRead k s) := by
  rcases spmRead_cases k s with ⟨_, e⟩ | ⟨_, _, e⟩ | ⟨_, _, _, e⟩ | ⟨_, _, _, e⟩ <;>
    rw [e] <;> constructor <;> simp

/-- The access stores nothing: it is no write, or one that the block refuses or ignores, or one to
CMD or CTRL. -/
def storesNothing (a : Access) (s : State) : Prop :=
  match a with
  | .csrRead _ => True
  | .csrWrite idx _ => busy s = true ∨ csrAt idx = .cmd ∨ csrAt idx = .ctrl
  | .spmRead _ => True
  | .spmWrite k _ => busy s = true ∨ s.memWords ≤ k.toNat

/-- Everything a host access other than a reset can do: store in a register or a scratch word of an
idle block, or keep all data; and no access takes a command off a busy block. -/
theorem hostAccess_cases {a : Access} {s t : State} (h : hostAccess a s = .next t)
    (hr : (Event.host a).isReset = false) :
    (∃ idx v, a = .csrWrite idx v ∧ busy s = false ∧ t = storeCsr (csrAt idx) v s) ∨
    (∃ k v, a = .spmWrite k v ∧ busy s = false ∧ k.toNat < s.memWords ∧
      t = writeScratchWord k.toNat v s) ∨
    (storesNothing a s ∧ KeepsData s t ∧ (busy s = true → t.inflight = s.inflight)) := by
  cases a with
  | csrRead idx =>
    cases h
    refine .inr (.inr ⟨trivial, keepsData_csrRead idx s, fun _ => ?_⟩)
    rcases csrRead_cases idx s with ⟨_, _, e⟩ | ⟨_, e⟩ <;> simp [e]
  | spmRead k =>
    cases h
    refine .inr (.inr ⟨trivial, keepsData_spmRead k s, fun _ => ?_⟩)
    rcases spmRead_cases k s with ⟨_, e⟩ | ⟨_, _, e⟩ | ⟨_, _, _, e⟩ | ⟨_, _, _, e⟩ <;> simp [e]
  | spmWrite k v =>
    cases h
    rcases spmWrite_cases k v s with ⟨hb, e⟩ | ⟨_, hk, e⟩ | ⟨hb, hk, e⟩ <;> rw [e]
    · exact .inr (.inr ⟨.inl hb, keepsData_raise _ _ s, fun _ => raise_inflight s _ _⟩)
    · exact .inr (.inr ⟨.inr hk, keepsData_raise _ _ s, fun _ => raise_inflight s _ _⟩)
    · exact .inr (.inl ⟨k, v, rfl, hb, hk, rfl⟩)
  | csrWrite idx v =>
    rw [hostAccess] at h
    rcases csrWrite_cases idx v s with ⟨hb, _, e⟩ | ⟨hb, hc, e⟩ | ⟨hc, e⟩ | ⟨hb, _, _, e⟩ <;>
      rw [e] at h
    · cases h
      exact .inr (.inr ⟨.inl hb, keepsData_raise _ _ s, fun _ => raise_inflight _ _ _⟩)
    · obtain ⟨w, e'⟩ := writeCmd_of_idle ((busy_eq_false_iff s).mp hb) v
      rw [e'] at h; cases h
      exact .inr (.inr ⟨.inr (.inl hc), keepsData_submit _ _ _ s, fun hb' => by simp [hb] at hb'⟩)
    · cases h
      have hv : v.getLsbD 0 = false := by simpa [Event.isReset, hc] using hr
      rw [writeCtrl, if_neg (ne_true_of_eq_false hv)]
      exact .inr (.inr ⟨.inr (.inr hc), by constructor <;> rfl, fun _ => rfl⟩)
    · cases h
      exact .inl ⟨idx, v, rfl, hb, rfl⟩

/-- Settles O54: a store is one to an idle block and leaves the results, and nothing else stores. -/
theorem hostNeverWritesResults : Obligations.HostNeverWritesResults := by
  intro a s t h hr
  rcases hostAccess_cases h hr with
    ⟨idx, v, _, hb, rfl⟩ | ⟨k, v, _, hb, _, rfl⟩ | ⟨_, hk, hi⟩
  · exact ⟨storeCsr_y _ _ _, storeCsr_dg _ _ _, storeCsr_dgv _ _ _, storeCsr_agenda _ _ _,
      fun hb' => by simp [hb] at hb'⟩
  · exact ⟨rfl, rfl, rfl, rfl, fun hb' => by simp [hb] at hb'⟩
  · exact ⟨hk.y, hk.dg, hk.dgv, hk.agenda, fun hb => ⟨hi hb, hk.x, hk.scratch, hk.spW, hk.inp,
      hk.sk, hk.ak, hk.nonceLo, hk.nonceHi, hk.inW, hk.skW, hk.akW⟩⟩

/-! ### Written bits (R31) -/

/-- A reset leaves the state that only a reset leaves, with some cells of the scratch memory. -/
theorem runEvent_reset {e : Event} (h : e.isReset = true) (s : State) :
    ∃ cells, runEvent e s = .next (clearedState cells s) := by
  cases e with
  | hardwareReset => exact ⟨[], rfl⟩
  | unit => cases h
  | host a =>
    cases a with
    | csrWrite idx v =>
      obtain ⟨hc, hv⟩ : csrAt idx = .ctrl ∧ v.getLsbD 0 = true := by
        simpa [Event.isReset] using h
      exact ⟨s.scratch, by rw [runEvent, hostAccess, csrWrite_ctrl hc, writeCtrl, if_pos hv]; rfl⟩
    | _ => cases h

/-- The event is a write to the register on an idle block. -/
def writesReg (e : Event) (r : CsrReg) (s : State) : Prop :=
  busy s = false ∧ ∃ idx v, csrAt idx = r ∧ e = .host (.csrWrite idx v)

theorem writesReg_csrWrite {idx : BitVec 7} {v : Word} {r : CsrReg} {s : State} :
    writesReg (.host (.csrWrite idx v)) r s ↔ busy s = false ∧ csrAt idx = r := by
  constructor
  · rintro ⟨hb, _, _, hr, ⟨⟩⟩; exact ⟨hb, hr⟩
  · rintro ⟨hb, hr⟩; exact ⟨hb, idx, v, hr, rfl⟩

theorem writtenBit_of_keepsData {s t : State} (h : KeepsData s t) (r : CsrReg) :
    writtenBit r t = writtenBit r s := by
  cases r <;> simp only [writtenBit, h.inW, h.skW, h.akW]

theorem writtenBit_effectOf (i : Instr) (s : State) (r : CsrReg) :
    writtenBit r (retire (effectOf i s)) = writtenBit r s := by
  cases r <;> simp [writtenBit]

/-- A write to a data register of an idle block is no access that stores nothing. -/
theorem not_writesReg_of_storesNothing {a : Access} {s : State} (h : storesNothing a s) {r : CsrReg}
    (hw : hasWrittenBit r = true) : ¬ writesReg (.host a) r s := by
  rintro ⟨hb, idx, v, hr, ⟨⟩⟩
  rcases h with h | h | h
  · simp [hb] at h
  · rw [← hr, h] at hw; cases hw
  · rw [← hr, h] at hw; cases hw

/-- What sets the written bit of a data register, short of a reset. -/
theorem writtenBit_iff {e : Event} {s t : State} (h : runEvent e s = .next t)
    (hr : e.isReset = false) {r : CsrReg} (hw : hasWrittenBit r = true) :
    writtenBit r t = true ↔ writtenBit r s = true ∨ writesReg e r s := by
  cases e with
  | hardwareReset => cases hr
  | unit =>
    have hno : ¬ writesReg .unit r s := by rintro ⟨_, _, _, _, ⟨⟩⟩
    rcases unitTurn_next_cases h with ⟨_, rfl⟩ | ⟨i, _, rfl⟩
    · simp [hno]
    · simp [hno, writtenBit_effectOf]
  | host a =>
    rcases hostAccess_cases h hr with
      ⟨idx, v, rfl, hb, rfl⟩ | ⟨k, v, rfl, _, _, rfl⟩ | ⟨hs, hk, _⟩
    · rw [writtenBit_storeCsr hw]
      simp [writesReg_csrWrite, hb]
    · have hno : ¬ writesReg (.host (.spmWrite k v)) r s := by rintro ⟨_, _, _, _, ⟨⟩⟩
      have hkeep : writtenBit r (writeScratchWord k.toNat v s) = writtenBit r s := by
        cases r <;> rfl
      simp [hno, hkeep]
    · rw [writtenBit_of_keepsData hk]
      simp [not_writesReg_of_storesNothing hs hw]

/-- The event is a write to the scratch word on an idle block. -/
def writesWord (e : Event) (k : Nat) (s : State) : Prop :=
  busy s = false ∧ ∃ (j : BitVec 32) (v : Word), j.toNat = k ∧ e = .host (.spmWrite j v)

theorem writesWord_spmWrite {j : BitVec 32} {v : Word} {k : Nat} {s : State} :
    writesWord (.host (.spmWrite j v)) k s ↔ busy s = false ∧ j.toNat = k := by
  constructor
  · rintro ⟨hb, _, _, hk, ⟨⟩⟩; exact ⟨hb, hk⟩
  · rintro ⟨hb, hk⟩; exact ⟨hb, j, v, hk, rfl⟩

/-- The event is the completion of EXPAND or HASH. -/
def fillsScratch (e : Event) (s : State) : Prop :=
  e = .unit ∧ (s.inflight = some .expand ∨ s.inflight = some .hash)

/-- What sets the written bit of a scratch word, short of a reset. -/
theorem indexIn_spW_iff {e : Event} {s t : State} (h : runEvent e s = .next t)
    (hr : e.isReset = false) {k : Nat} (hk : k < s.memWords) :
    indexIn t.spW k = true ↔ indexIn s.spW k = true ∨ writesWord e k s ∨ fillsScratch e s := by
  cases e with
  | hardwareReset => cases hr
  | unit =>
    have hno : ¬ writesWord .unit k s := by rintro ⟨_, _, _, _, ⟨⟩⟩
    rcases unitTurn_next_cases h with ⟨hi, rfl⟩ | ⟨i, hi, rfl⟩
    · simp [hno, fillsScratch, hi]
    · rw [retire_spW, effectOf_spW]
      by_cases hf : i = .expand ∨ i = .hash
      · rw [if_pos hf, indexIn_iff]
        simp [fillsScratch, hi, hf, hk]
      · rw [if_neg hf]
        simp [hno, fillsScratch, hi, hf]
  | host a =>
    have hno : ¬ fillsScratch (.host a) s := by rintro ⟨⟨⟩, _⟩
    rcases hostAccess_cases h hr with
      ⟨idx, v, rfl, _, rfl⟩ | ⟨j, v, rfl, hb, _, rfl⟩ | ⟨hs, hkeep, _⟩
    · have hw : ¬ writesWord (.host (.csrWrite idx v)) k s := by rintro ⟨_, _, _, _, ⟨⟩⟩
      simp [hno, hw]
    · rw [writeScratchWord_spW, indexIn_indexInsert]
      simp [hno, writesWord_spmWrite, hb, or_comm, @eq_comm _ k]
    · have hw : ¬ writesWord (.host a) k s := by
        rintro ⟨hb, j, v, rfl, ⟨⟩⟩
        rcases hs with hs | hs
        · simp [hb] at hs
        · omega
      simp [hno, hw, hkeep.spW]

/-- Settles O53: a reset clears the bits, and the two lemmas above say what else sets one. -/
theorem writtenBitsOnlyGrow : Obligations.WrittenBitsOnlyGrow := by
  intro e s t h
  refine ⟨fun hr => ?_, fun hr => ⟨fun n => writtenBit_iff (r := .inp n) h hr rfl,
    fun n => writtenBit_iff (r := .sk n) h hr rfl, fun n => writtenBit_iff (r := .ak n) h hr rfl,
    fun k hk => indexIn_spW_iff h hr hk⟩⟩
  obtain ⟨cells, e'⟩ := runEvent_reset hr s
  rw [e'] at h
  cases h
  exact ⟨fun n => by simp, fun n => by simp, fun n => by simp, fun _ => rfl⟩

/-! ### The step (R14, R22) -/

theorem step_of_agenda_nil {s : State} (h : s.agenda = []) : step s = unitTurn s := by
  simp only [step, nextEvent, h, runEvent]

theorem step_of_agenda_cons {s : State} {e : Event} {es : List Event} (h : s.agenda = e :: es) :
    step s = runEvent e { s with agenda := es } := by
  simp only [step, nextEvent, h]

/-- A CMD write of a legal word on an idle block runs its command (R22). -/
theorem runEvent_cmd {s : State} {w : Word} {i : Instr} (hd : decode w = some i)
    (hi : s.inflight = none) : runEvent (.host (.csrWrite cmdIndex w)) s = exec i s := by
  rw [runEvent, hostAccess, csrWrite_cmd ((busy_eq_false_iff s).mpr hi), writeCmd, hd]

/-- Settles O4: the next event is the head of the agenda, or else the unit's turn. -/
theorem stepRunsTheCommand : Obligations.StepRunsTheCommand := by
  refine ⟨fun s w i rest ha hd hi => ?_, fun s i ha hi => ?_, fun s i rest ha hi => ?_,
    fun s nbits w i hd hi => ?_⟩
  · exact (step_of_agenda_cons ha).trans (runEvent_cmd hd hi)
  · exact (step_of_agenda_nil ha).trans (unitTurn_of_inflight hi)
  · exact (step_of_agenda_cons ha).trans (unitTurn_of_inflight hi)
  · have ha : (s.withFetchWord nbits w).agenda =
        .host (.csrWrite cmdIndex (commandWord nbits w)) :: s.agenda := rfl
    exact (step_of_agenda_cons ha).trans (runEvent_cmd hd hi)

end Sys2Proof.Machine

/-!
PROOFS. The statements of 20_memory.md: the byte view of the scratch memory (R37) and the accesses
out of its range (R43, R44; 60_exceptions.md R138).
-/

namespace Sys2Proof.Machine

/-! ### The byte view and the word view (R37) -/

theorem getElem?_scratchBytes (s : State) (a : Nat) {n i : Nat} (h : i < n) :
    (scratchBytes s a n)[i]? = some (scratchByte s (a + i)) := by
  simp [scratchBytes, h]

theorem leByte_scratchWord (s : State) (k : Nat) {i : Nat} (h : i < 8) :
    leByte (scratchWord s k) i = scratchByte s (8 * k + i) := by
  rw [scratchWord, leByte_unle64 _ _ h, scratchBytes, byteAt_map_range _ h]

theorem le64_scratchWord (s : State) (k : Nat) :
    le64 (scratchWord s k) = scratchBytes s (8 * k) 8 :=
  le64_unle64 _ (scratchBytes_length s _ _)

/-- Byte `n` of the concatenated words is scratch byte `n`. -/
theorem getElem?_wordsToBytes_scratchWords (s : State) {n : Nat}
    (h : n < Config.sizeBytes s.memWords) :
    (wordsToBytes (scratchWords s))[n]? = some (scratchByte s n) := by
  have hk : n / 8 < (scratchWords s).length := by
    rw [scratchWords_length]; unfold Config.sizeBytes at h; omega
  have hi : n % 8 < 8 := Nat.mod_lt _ (by decide)
  have hword : (scratchWords s)[n / 8] = scratchWord s (n / 8) := by simp [scratchWords]
  calc (wordsToBytes (scratchWords s))[n]?
      = (wordsToBytes (scratchWords s))[8 * (n / 8) + n % 8]? := by rw [Nat.div_add_mod]
    _ = (scratchBytes s (8 * (n / 8)) 8)[n % 8]? := by
      rw [getElem?_wordsToBytes _ _ _ hi hk, hword, le64_scratchWord]
    _ = some (scratchByte s n) := by rw [getElem?_scratchBytes s _ hi, Nat.div_add_mod]

/-- Settles O40: a word's byte is the scratch byte at its address, so both strings hold the same byte
at every position. -/
theorem byteViewIsWordView : Obligations.ByteViewIsWordView := by
  refine ⟨fun s n => ?_, fun s a n h => ?_⟩
  · have hbyte := leByte_scratchWord s (n / 8) (Nat.mod_lt n (by decide : 0 < 8))
    rw [Nat.div_add_mod] at hbyte
    exact hbyte.symm
  · have hlen : (slice (wordsToBytes (scratchWords s)) a n).length = n :=
      slice_length _ _ _ (by rw [wordsToBytes_length, scratchWords_length]; exact h)
    apply List.ext_getElem?
    intro i
    by_cases hi : i < n
    · rw [getElem?_scratchBytes s a hi, getElem?_slice _ _ _ _ hi,
        getElem?_wordsToBytes_scratchWords s (by omega)]
    · rw [List.getElem?_eq_none (by rw [scratchBytes_length]; omega),
        List.getElem?_eq_none (by omega)]

/-! ### Accesses out of range (R43, R44) -/

theorem spmWrite_out_of_range {s : State} {k : BitVec 32} (hb : busy s = false)
    (hk : s.memWords ≤ k.toNat) (v : Word) :
    spmWrite k v s = raise .spmRange (spmInfo true k) s := by
  simp [spmWrite, hb, hk]

theorem spmRead_out_of_range {s : State} {k : BitVec 32} (hb : busy s = false)
    (hk : s.memWords ≤ k.toNat) :
    spmRead k s = deliver 0 (raise .spmRange (spmInfo false k) s) := by
  simp [spmRead, hb, hk]

/-- Settles O50: both accesses record SPM_RANGE, which is the first fault, and the read returns 0. -/
theorem scratchRangeFaults : Obligations.ScratchRangeFaults := by
  intro s k v hb hk hf
  refine ⟨?_, ?_⟩
  · rw [hostAccess, spmWrite_out_of_range hb hk, raise_of_none hf]
  · rw [hostAccess, spmRead_out_of_range hb hk, raise_of_none hf]; rfl

end Sys2Proof.Machine

/-!
PROOFS. The statements of 30_encoding.md: the fields of a command word (R50), the opcode map (R54)
and the decoder (R55).
-/

namespace Sys2Proof.Machine

/-! ### A command word and its three fields (R50) -/

@[simp] theorem ofWord_toWord (f : CmdFields) : CmdFields.ofWord f.toWord = f := by
  have hopc : f.toWord.extractLsb' 0 8 = f.opc := BitVec.extractLsb'_append_eq_right
  have hsel : f.toWord.extractLsb' 8 4 = f.sel :=
    (BitVec.extractLsb'_append_eq_of_le (le_refl 8)).trans <|
      BitVec.extractLsb'_append_eq_right
  have hres : f.toWord.extractLsb' 12 52 = f.res :=
    (BitVec.extractLsb'_append_eq_of_le (by decide : 8 ≤ 12)).trans
      BitVec.extractLsb'_append_eq_left
  rw [CmdFields.ofWord, hopc, hsel, hres]

@[simp] theorem toWord_ofWord (w : Word) : (CmdFields.ofWord w).toWord = w := by
  have hhigh : w.extractLsb' 12 52 ++ w.extractLsb' 8 4 = w.extractLsb' 8 56 :=
    BitVec.extractLsb'_append_extractLsb'_eq_extractLsb' rfl
  have hall : w.extractLsb' 8 56 ++ w.extractLsb' 0 8 = w.extractLsb' 0 64 :=
    BitVec.extractLsb'_append_extractLsb'_eq_extractLsb' rfl
  rw [CmdFields.toWord, CmdFields.ofWord, hhigh, hall, BitVec.extractLsb'_eq_self]

theorem ofWord_encode (i : Instr) : CmdFields.ofWord (encode i) = encodeFields i :=
  ofWord_toWord _

/-! ### The opcode map, read in both directions (R54) -/

theorem encodeFields_decodeMixop (k : BitVec 4) : encodeFields (decodeMixop k) = ⟨0x10, k, 0⟩ := by
  revert k; decide

theorem encodeFields_of_decodePlain {opc : BitVec 8} {i : Instr} (h : decodePlain opc = some i) :
    encodeFields i = ⟨opc, 0, 0⟩ := by
  unfold decodePlain at h
  split at h <;> cases h
  all_goals
    next hn => exact congrArg (CmdFields.mk · 0 0) (BitVec.eq_of_toNat_eq hn.symm)

/-- Every OPC of the column is MIXOP's or has a command of its own. -/
theorem decodePlain_isSome :
    ∀ opc ∈ opcColumn, opc ≠ 0x10 → (decodePlain opc).isSome = true := by decide

theorem decodeFields_encodeFields (i : Instr) : decodeFields (encodeFields i) = some i := by
  cases i <;> rfl

theorem encodeFields_wf (i : Instr) : (encodeFields i).wf = true := by cases i <;> rfl

/-! ### Decoding the fields (R55) -/

theorem wf_iff (f : CmdFields) :
    f.wf = true ↔ f.res = 0 ∧ f.opc ∈ opcColumn ∧ (f.opc = 0x10 ∨ f.sel = 0) := by
  simp [CmdFields.wf, CmdFields.resZero, CmdFields.opcDefined, CmdFields.selAllowed, and_assoc]

theorem decodeFields_plain {opc : BitVec 8} (h : opc ≠ 0x10) :
    decodeFields ⟨opc, 0, 0⟩ = decodePlain opc := if_neg h

theorem encodeFields_of_decodeFields {f : CmdFields} {i : Instr} (h : decodeFields f = some i) :
    encodeFields i = f := by
  obtain ⟨opc, sel, res⟩ := f
  simp only [decodeFields] at h
  split_ifs at h with hres hopc hsel
  · obtain rfl : res = 0 := not_not.mp hres
    cases h; rw [encodeFields_decodeMixop, hopc]
  · obtain rfl : res = 0 := not_not.mp hres
    obtain rfl : sel = 0 := not_not.mp hsel
    exact encodeFields_of_decodePlain h

theorem decodeFields_eq_some_iff (f : CmdFields) (i : Instr) :
    decodeFields f = some i ↔ f = encodeFields i :=
  ⟨fun h => (encodeFields_of_decodeFields h).symm, fun h => h ▸ decodeFields_encodeFields i⟩

theorem decodeFields_isSome_of_wf {f : CmdFields} (h : f.wf = true) :
    (decodeFields f).isSome = true := by
  obtain ⟨opc, sel, res⟩ := f
  obtain ⟨rfl, hopc, hsel⟩ := (wf_iff _).mp h
  by_cases hm : opc = 0x10
  · subst hm; rfl
  · obtain rfl : sel = 0 := hsel.resolve_left hm
    rw [decodeFields_plain hm]
    exact decodePlain_isSome opc hopc hm

/-- The decoder refuses exactly the fields that are not well formed. -/
theorem decodeFields_isSome_iff_wf (f : CmdFields) :
    (decodeFields f).isSome = true ↔ f.wf = true := by
  refine ⟨fun h => ?_, decodeFields_isSome_of_wf⟩
  obtain ⟨i, hi⟩ := Option.isSome_iff_exists.mp h
  rw [(decodeFields_eq_some_iff f i).mp hi]
  exact encodeFields_wf i

/-! ### Decoding a word (R55) -/

theorem decode_eq_some_iff (w : Word) (i : Instr) : decode w = some i ↔ w = encode i := by
  rw [decode, decodeFields_eq_some_iff]
  constructor
  · intro h; rw [encode, ← h, toWord_ofWord]
  · rintro rfl; exact ofWord_encode i

theorem decode_eq_none_iff (w : Word) :
    decode w = none ↔ w.extractLsb' 12 52 ≠ 0 ∨ w.extractLsb' 0 8 ∉ opcColumn ∨
      (w.extractLsb' 0 8 ≠ 0x10 ∧ w.extractLsb' 8 4 ≠ 0) := by
  have hwf := (decodeFields_isSome_iff_wf (CmdFields.ofWord w)).trans (wf_iff _)
  rw [← Option.not_isSome_iff_eq_none, decode, hwf, not_and_or, not_and_or, not_or]
  rfl

/-- An illegal word makes no command: its submission finds nothing to accept (R139). -/
theorem writeCmd_illegal {w : Word} (hd : decode w = none) (s : State) :
    writeCmd w s = .next (submit w none none s) := by
  rw [writeCmd, hd]

theorem csrWrite_cmd_illegal {w : Word} {s : State} (hr : Ready s) (hd : decode w = none) :
    csrWrite cmdIndex w s =
      .next { s with fault := some .illegalCmd, errInfo := commandInfo w s } := by
  have ⟨hidle, hfault⟩ := hr
  rw [csrWrite_cmd ((busy_eq_false_iff s).mpr hidle), writeCmd_illegal hd, submit_illegal hr,
    raise_of_none hfault]

/-! ### The statements -/

/-- Settles O1: the fields and the opcode map are each read in both directions. -/
theorem decodeAgreesWithEncode : Obligations.DecodeAgreesWithEncode := decode_eq_some_iff

/-- Settles O2: the decoder refuses exactly the words that are not well formed, and a legal word is
the one that encodes its command. -/
theorem decodeIsTotal : Obligations.DecodeIsTotal := by
  refine ⟨decode_eq_none_iff, fun w i h => ?_, fun w s => csrWrite_cmd_illegal⟩
  have hf : CmdFields.ofWord w = encodeFields i := (decodeFields_eq_some_iff _ i).mp h
  exact ⟨congrArg CmdFields.opc hf, congrArg CmdFields.sel hf⟩

/-- Settles O3: each legal word is the one that encodes its command, and each illegal word meets one
of the three conditions of R55. -/
theorem sampleWordsDecode : Obligations.SampleWordsDecode := by
  have legal {w : Word} {i : Instr} : w = encode i → decode w = some i :=
    (decode_eq_some_iff w i).mpr
  refine ⟨legal rfl, legal rfl, legal rfl, legal rfl, legal rfl, legal rfl, legal rfl, legal rfl,
    legal rfl, ?_, ?_, ?_, ?_⟩ <;> rw [decode_eq_none_iff]
  · exact .inr (.inr (by decide))
  · exact .inr (.inl (by decide))
  · exact .inl (by decide)
  · exact .inl (by decide)

end Sys2Proof.Machine

/-!
PROOFS. The statements of 40_wide_arith.md about the primitives of section 1: the rotates (R60) and
the square root (R63).
-/

namespace Sys2Proof.Machine

/-! ### The amount of a rotate (R60) -/

theorem rotl64_mod (x : Word) (n : Nat) : rotl64 x (n % 64) = rotl64 x n := by
  rw [rotl64, rotl64, Nat.mod_mod]

theorem rotr64_mod (x : Word) (n : Nat) : rotr64 x (n % 64) = rotr64 x n := by
  rw [rotr64, rotr64, Nat.mod_mod]

theorem rotl64_of_mod_eq_zero (x : Word) {n : Nat} (h : n % 64 = 0) : rotl64 x n = x := if_pos h

theorem rotr64_of_mod_eq_zero (x : Word) {n : Nat} (h : n % 64 = 0) : rotr64 x n = x := if_pos h

theorem rotl64_of_mod_ne_zero (x : Word) {n : Nat} (h : n % 64 ≠ 0) :
    rotl64 x n = (x <<< (n % 64)) ||| (x >>> (64 - n % 64)) := if_neg h

theorem rotr64_of_mod_ne_zero (x : Word) {n : Nat} (h : n % 64 ≠ 0) :
    rotr64 x n = (x >>> (n % 64)) ||| (x <<< (64 - n % 64)) := if_neg h

theorem rotl64_eq_rotr64_sub (x : Word) {n : Nat} (h : n % 64 ≠ 0) :
    rotl64 x n = rotr64 x (64 - n % 64) := by
  have hmod : (64 - n % 64) % 64 = 64 - n % 64 := by omega
  have hsub : 64 - (64 - n % 64) = n % 64 := by omega
  rw [rotl64_of_mod_ne_zero x h, rotr64_of_mod_ne_zero x (by omega), hmod, hsub, BitVec.or_comm]

/-! ### Where each bit goes (R60) -/

theorem getLsbD_rotl64 (x : Word) (n : Nat) {b : Nat} (hb : b < 64) :
    (rotl64 x n).getLsbD ((b + n) % 64) = x.getLsbD b := by
  rw [rotl64_eq_rotateLeft, BitVec.getLsbD_rotateLeft]
  by_cases hwrap : (b + n) % 64 < n % 64
  · have hpos : 64 - n % 64 + (b + n) % 64 = b := by omega
    simp [hwrap, hpos]
  · have hpos : (b + n) % 64 - n % 64 = b := by omega
    simp [hwrap, hpos, Nat.mod_lt]

theorem getLsbD_rotr64 (x : Word) (n : Nat) {b : Nat} (hb : b < 64) :
    (rotr64 x n).getLsbD b = x.getLsbD ((b + n) % 64) := by
  rw [rotr64_eq_rotateRight, BitVec.getLsbD_rotateRight]
  by_cases hfit : b < 64 - n % 64
  · have hpos : n % 64 + b = (b + n) % 64 := by omega
    simp [hfit, hpos]
  · have hpos : b - (64 - n % 64) = (b + n) % 64 := by omega
    simp [hfit, hb, hpos]

/-! ### The statements -/

/-- Settles O14: the branches of the two rotates, and each bit followed through the rotation that
the rotate is. -/
theorem rotateAmountModulo64 : Obligations.RotateAmountModulo64 := fun x n =>
  ⟨(rotl64_mod x n).symm, (rotr64_mod x n).symm,
    fun h => ⟨rotl64_of_mod_eq_zero x h, rotr64_of_mod_eq_zero x h⟩,
    fun h => ⟨rotl64_of_mod_ne_zero x h, rotr64_of_mod_ne_zero x h, rotl64_eq_rotr64_sub x h⟩,
    fun _ hb => ⟨getLsbD_rotl64 x n hb, getLsbD_rotr64 x n hb⟩⟩

/-- Settles O18: the digit loop ends with `Nat.sqrt`, by the loop invariant of
`sqrtLoop_eq_sqrt`. -/
theorem integerSqrtIsFloor : Obligations.IntegerSqrtIsFloor := fun n =>
  ⟨integerSqrt_sq_le n, lt_succ_integerSqrt_sq n⟩

end Sys2Proof.Machine

/-!
PROOFS. The statements of 41_mix_ops.md: the completions of MIXOP.0 to MIXOP.15 and MIXAUTO (R80 to
R98), and that none of them faults (R99).
-/

namespace Sys2Proof.Machine

/-! ### The mixing commands through the mixing table (R80) -/

theorem commandCheck_decodeMixop (k : BitVec 4) (s : State) :
    commandCheck (decodeMixop k) s = none := by
  unfold decodeMixop
  split <;> rfl

/-- No mixing command has a check of its own (R99). -/
theorem commandCheck_mixing {k : BitVec 4} {i : Instr} (hi : i = decodeMixop k ∨ i = .mixauto)
    (s : State) : commandCheck i s = none := by
  obtain rfl | rfl := hi
  · exact commandCheck_decodeMixop k s
  · rfl

theorem effectOf_decodeMixop (k : BitVec 4) (s : State) :
    effectOf (decodeMixop k) s =
      writeMix (k.zeroExtend 64) (mixTable k (mixOperands s)) s := by
  obtain ⟨⟨k, hk⟩⟩ := k
  interval_cases k <;> rfl

/-- MIXOP.k completes with `v`, where the table gives `v` (R80). -/
theorem mixop_complete {k : BitVec 4} {s : State} {v : Word}
    (h : s.inflight = some (decodeMixop k)) (hv : mixTable k (mixOperands s) = v) :
    exec (decodeMixop k) s = .next (retire (writeMix (k.zeroExtend 64) v s)) := by
  rw [exec_complete h (commandCheck_decodeMixop k s), effectOf_decodeMixop, hv]

theorem exec_ready_accept {i : Instr} {s : State} (h : Ready s) (hc : commandCheck i s = none) :
    exec i s = .next (accept i s) := by
  have hi : s.inflight ≠ some i := by simp [h.1]
  rw [exec_submit hi, hc, submit_accept h]

/-! ### The masked divisors (R99) -/

theorem toNat_le_toNat_or {w : Nat} (x m : BitVec w) : m.toNat ≤ (x ||| m).toNat := by
  rw [BitVec.toNat_or]
  exact Nat.right_le_or

theorem or_ne_zero {w : Nat} (x : BitVec w) {m : BitVec w} (hm : m ≠ 0) : x ||| m ≠ 0 :=
  fun h => hm (BitVec.or_eq_zero_iff.mp h).2

theorem toNat_le_toNat_combine_or (hi x m : Word) : m.toNat ≤ (combine hi (x ||| m)).toNat := by
  rw [toNat_combine]
  exact (toNat_le_toNat_or x m).trans (Nat.le_add_left _ _)

/-! ### The words a division or a product leaves (R61, R62, R64), as natural numbers -/

theorem lo64_eq_ofNat (z : DWord) : lo64 z = BitVec.ofNat 64 z.toNat :=
  BitVec.eq_of_toNat_eq (by rw [toNat_lo64, BitVec.toNat_ofNat])

theorem hi64_eq_ofNat {z : DWord} {n : Nat} (h : z.toNat = n % 2 ^ 128) :
    hi64 z = BitVec.ofNat 64 (n / 2 ^ 64) := by
  apply BitVec.eq_of_toNat_eq
  rw [toNat_hi64, BitVec.toNat_ofNat, h]
  exact Nat.mod_mul_right_div_self n (2 ^ 64) (2 ^ 64)

theorem toNat_udiv_rem {hi lo d : Word} (h : d ≠ 0) :
    (udiv hi lo d).2.2.toNat = (hi.toNat * 2 ^ 64 + lo.toNat) % d.toNat := by
  obtain ⟨hdiv, hrem⟩ := udiv_spec (hi := hi) (lo := lo) h
  rw [hdiv, Nat.mul_add_mod', Nat.mod_eq_of_lt hrem]

theorem udiv_quot_lo {hi lo d : Word} (h : d ≠ 0) :
    (udiv hi lo d).1 = BitVec.ofNat 64 ((hi.toNat * 2 ^ 64 + lo.toNat) / d.toNat) := by
  obtain ⟨hdiv, hrem⟩ := udiv_spec (hi := hi) (lo := lo) h
  have hquot : (hi.toNat * 2 ^ 64 + lo.toNat) / d.toNat =
      (udiv hi lo d).2.1.toNat * 2 ^ 64 + (udiv hi lo d).1.toNat := by
    rw [hdiv, mul_comm, Nat.mul_add_div (toNat_pos_of_ne_zero h), Nat.div_eq_of_lt hrem, add_zero]
  rw [hquot]
  apply BitVec.eq_of_toNat_eq
  rw [BitVec.toNat_ofNat, Nat.mul_add_mod', Nat.mod_eq_of_lt (BitVec.isLt _)]

/-! ### The functions of the table whose formulas rotate (R81, R82), or divide or multiply wide words
(R91 to R96) -/

theorem mix0_eq (o : MixOperands) :
    mix0 o = o.c.rotateLeft (o.i * o.j).toNat ^^^ o.b := by
  rw [mix0, rotl64_eq_rotateLeft]

theorem mix1_eq (o : MixOperands) :
    mix1 o = o.c.rotateRight (o.i * o.j).toNat ^^^ o.a := by
  rw [mix1, rotr64_eq_rotateRight]

theorem toNat_mix10 (o : MixOperands) :
    (mix10 o).toNat = (o.a.toNat * 2 ^ 64 + o.b.toNat) % (o.c ||| 1).toNat :=
  toNat_udiv_rem (or_ne_zero _ (by decide))

theorem mix11_eq (o : MixOperands) :
    mix11 o =
      if o.b.toNat * 2 ^ 64 + o.c.toNat <
          (o.result.rotateLeft o.r.toNat).toNat * 2 ^ 64 + (o.a ||| 2).toNat then o.c
      else BitVec.ofNat 64 ((o.b.toNat * 2 ^ 64 + o.c.toNat) %
        ((o.result.rotateLeft o.r.toNat).toNat * 2 ^ 64 + (o.a ||| 2).toNat)) := by
  simp only [mix11, div128w, BitVec.lt_def, lo64_eq_ofNat, BitVec.toNat_umod, toNat_combine,
    rotl64_eq_rotateLeft]

theorem mix12_eq (o : MixOperands) :
    mix12 o = BitVec.ofNat 64 ((o.c.toNat * 2 ^ 64 + o.a.toNat) / (o.b ||| 4).toNat) :=
  udiv_quot_lo (or_ne_zero _ (by decide))

theorem mix13_eq (o : MixOperands) :
    mix13 o =
      if o.a.toNat * 2 ^ 64 + (o.c ||| 8).toNat <
          (o.result.rotateLeft o.r.toNat).toNat * 2 ^ 64 + o.b.toNat then
        BitVec.ofNat 64 (((o.result.rotateLeft o.r.toNat).toNat * 2 ^ 64 + o.b.toNat) /
          (o.a.toNat * 2 ^ 64 + (o.c ||| 8).toNat))
      else o.a ^^^ o.b := by
  simp only [mix13, div128w, BitVec.lt_def, lo64_eq_ofNat, BitVec.toNat_udiv, toNat_combine,
    rotl64_eq_rotateLeft]

theorem mix14_eq (o : MixOperands) :
    mix14 o =
      BitVec.ofNat 64 ((o.b.toNat * 2 ^ 64 + o.a.toNat) * o.c.toNat / 2 ^ 64) :=
  hi64_eq_ofNat (toNat_mul128x64 _ _ _)

theorem mix15_eq (o : MixOperands) :
    mix15 o =
      BitVec.ofNat 64 ((o.a.toNat * 2 ^ 64 + o.c.toNat) *
        ((o.result.rotateRight o.r.toNat).toNat * 2 ^ 64 + o.b.toNat) / 2 ^ 64) := by
  rw [← rotr64_eq_rotateRight]
  exact hi64_eq_ofNat (toNat_mul128x128 _ _ _ _)

/-! ### The statements -/

/-- Settles O24: the values are the remainders and quotients of `mix10` to `mix13`, whose masked
divisors are not zero. -/
theorem divisionMixopsComplete : Obligations.DivisionMixopsComplete := fun s =>
  ⟨fun h => ⟨_, mixop_complete (k := 10) h rfl, toNat_mix10 (mixOperands s)⟩,
    fun h => ⟨_, mixop_complete (k := 11) h rfl, mix11_eq (mixOperands s)⟩,
    fun h => ⟨_, mixop_complete (k := 12) h rfl, mix12_eq (mixOperands s)⟩,
    fun h => ⟨_, mixop_complete (k := 13) h rfl, mix13_eq (mixOperands s)⟩⟩

/-- Settles O25: the values are the high halves of the products of `mix14` and `mix15`. -/
theorem multiplyMixopsComplete : Obligations.MultiplyMixopsComplete := fun _ =>
  ⟨fun h => mixop_complete (k := 14) h (mix14_eq _),
    fun h => mixop_complete (k := 15) h (mix15_eq _)⟩

/-- Settles O26: MIXAUTO and the MIXOP.k it selects take `Y0` from the same entry of the table. -/
theorem mixautoCompletes : Obligations.MixautoCompletes := by
  intro s h
  refine ⟨mixTable (mixSelect (x3 s) (x2 s)) (mixOperands s), mixSelect (x3 s) (x2 s), ?_, rfl, ?_,
    mixop_complete rfl rfl⟩
  · rw [mixSelect, rotl64_eq_rotateLeft]
  · rw [← rotl64_eq_rotateLeft]
    exact exec_complete h rfl

/-- Settles O27: the mixing commands have no check that could fail, their effects leave the fault
alone, and a mask is at most what it is or-ed into. -/
theorem mixingNeverFaults : Obligations.MixingNeverFaults := by
  refine ⟨fun k s hs => ⟨?_, ?_⟩, fun k i s hi h => ?_, fun a b c hi => ?_⟩
  · exact exec_ready_accept hs (commandCheck_decodeMixop k s)
  · exact exec_ready_accept hs rfl
  · exact ⟨_, exec_complete h (commandCheck_mixing hi s), effectOf_fault i s⟩
  · exact ⟨toNat_le_toNat_or c 1, toNat_le_toNat_combine_or hi a 2, toNat_le_toNat_or b 4,
      toNat_le_toNat_combine_or a c 8⟩

/-- Settles O22: the formulas are those of `mix2` to `mix9`. -/
theorem plainMixopsComplete : Obligations.PlainMixopsComplete := fun _ =>
  ⟨fun h => mixop_complete (k := 2) h rfl, fun h => mixop_complete (k := 3) h rfl,
    fun h => mixop_complete (k := 4) h rfl, fun h => mixop_complete (k := 5) h rfl,
    fun h => mixop_complete (k := 6) h rfl, fun h => mixop_complete (k := 7) h rfl,
    fun h => mixop_complete (k := 8) h rfl, fun h => mixop_complete (k := 9) h rfl⟩

/-- Settles O23: the formulas are those of `mix0` and `mix1`, whose rotates are the rotations of a
word. -/
theorem rotateXorMixopsComplete : Obligations.RotateXorMixopsComplete := fun _ =>
  ⟨fun h => mixop_complete (k := 0) h (mix0_eq _),
    fun h => mixop_complete (k := 1) h (mix1_eq _)⟩

end Sys2Proof.Machine

/-!
PROOFS. The statements of 42_keystream.md: the segments of Stage 1, their digests and their nonces
(R103 to R105), and the size of what they fill (R107).
-/

namespace Sys2Proof.Machine

/-! ### Slices of a string that was appended to -/

theorem slice_append_left {xs : List Byte} (ys : List Byte) {a n : Nat} (h : a + n ≤ xs.length) :
    slice (xs ++ ys) a n = slice xs a n := by
  rw [slice, slice, List.drop_append_of_le_length (by omega),
    List.take_append_of_le_length (by rw [List.length_drop]; omega)]

theorem slice_append_right (xs ys : List Byte) (a n : Nat) :
    slice (xs ++ ys) (xs.length + a) n = slice ys a n := by
  rw [slice, slice, List.drop_length_add_append]

theorem slice_append_end {xs ys : List Byte} {a n : Nat} (hx : xs.length = a)
    (hy : ys.length = n) : slice (xs ++ ys) a n = ys := by
  rw [← hx, ← hy, slice, List.drop_left, List.take_length]

section Stage1

variable (hash32 : List Byte → Vector Byte 32)
  (chaCha8 : List Byte → List Byte → (n : Nat) → Vector Byte n) (m : Nat)
  (ib km nonce : List Byte)

/-! ### Stage 1 after its first segments (R33, R103) -/

/-- The loop state of Stage 1 before segment step `i`, which is that after the first `i` steps. -/
def stage1After (i : Nat) : Stage1State :=
  (List.range i).foldl (segmentStep hash32 chaCha8 m km)
    { digest := (hash32 ib).toList, nonce := nonce, out := [] }

variable {hash32 chaCha8 m ib km nonce}

theorem stage1Bytes_eq_stage1After :
    stage1Bytes hash32 chaCha8 m ib km nonce =
      (stage1After hash32 chaCha8 m ib km nonce 4).out := rfl

theorem stage1After_zero_nonce : (stage1After hash32 chaCha8 m ib km nonce 0).nonce = nonce := rfl

theorem stage1After_succ (i : Nat) :
    stage1After hash32 chaCha8 m ib km nonce (i + 1) =
      segmentStep hash32 chaCha8 m km (stage1After hash32 chaCha8 m ib km nonce i) i := by
  simp [stage1After, List.range_succ]

theorem stage1After_out_length (i : Nat) :
    (stage1After hash32 chaCha8 m ib km nonce i).out.length = i * Config.segBytes m := by
  rw [stage1After, segmentSteps_out_length, List.length_range]
  exact Nat.zero_add _

/-- The digests of the loop are the chain of R103 and R104. -/
theorem stage1After_digest (i : Nat) :
    (stage1After hash32 chaCha8 m ib km nonce i).digest = digestChain hash32 ib km i := by
  induction i with
  | zero => rfl
  | succ i ih => rw [stage1After_succ, segmentStep, ih, digestChain]

/-- Segment step `i` appends the keystream of the next digest under the loop's nonce (R105). -/
theorem stage1After_succ_out (i : Nat) :
    (stage1After hash32 chaCha8 m ib km nonce (i + 1)).out =
      (stage1After hash32 chaCha8 m ib km nonce i).out ++
        (chaCha8 (digestChain hash32 ib km (i + 1))
          (stage1After hash32 chaCha8 m ib km nonce i).nonce (Config.segBytes m)).toList := by
  rw [stage1After_succ, segmentStep, stage1After_digest, digestChain]

/-- The bytes so far stay where they are in every later step. -/
theorem slice_stage1After_of_le {i k a n : Nat} (hik : i ≤ k)
    (h : a + n ≤ i * Config.segBytes m) :
    slice (stage1After hash32 chaCha8 m ib km nonce k).out a n =
      slice (stage1After hash32 chaCha8 m ib km nonce i).out a n := by
  induction k, hik using Nat.le_induction with
  | base => rfl
  | succ k hik ih =>
    have hlen : a + n ≤ (stage1After hash32 chaCha8 m ib km nonce k).out.length := by
      rw [stage1After_out_length]
      exact h.trans (Nat.mul_le_mul_right _ hik)
    rw [stage1After_succ_out, slice_append_left _ hlen, ih]

/-! ### What a segment and its nonce are (R105) -/

/-- The nonce a segment step leaves is the end of the bytes so far: a segment holds a whole nonce,
so that the end of the keystream is the end of all bytes. -/
theorem stage1After_succ_nonce (hseg : Config.nonceLen ≤ Config.segBytes m) (i : Nat) :
    (stage1After hash32 chaCha8 m ib km nonce (i + 1)).nonce =
      slice (stage1After hash32 chaCha8 m ib km nonce (i + 1)).out
        ((i + 1) * Config.segBytes m - Config.nonceLen) Config.nonceLen := by
  have hstart : (i + 1) * Config.segBytes m - Config.nonceLen =
      (stage1After hash32 chaCha8 m ib km nonce i).out.length +
        (Config.segBytes m - Config.nonceLen) := by
    rw [stage1After_out_length, Nat.succ_mul, Nat.add_sub_assoc hseg]
  rw [hstart, stage1After_succ, segmentStep, slice_append_right]

/-- Segment `i` of the bytes is what segment step `i` appends. -/
theorem slice_stage1Bytes_segment {i : Nat} (hi : i < 4) :
    slice (stage1Bytes hash32 chaCha8 m ib km nonce) (i * Config.segBytes m) (Config.segBytes m) =
      (chaCha8 (digestChain hash32 ib km (i + 1))
        (stage1After hash32 chaCha8 m ib km nonce i).nonce (Config.segBytes m)).toList := by
  rw [stage1Bytes_eq_stage1After,
    slice_stage1After_of_le (i := i + 1) hi (by rw [Nat.succ_mul]),
    stage1After_succ_out]
  exact slice_append_end (stage1After_out_length i) (Vector.length_toList)

/-- The nonce of segment `i` in terms of Stage 1's bytes: NONCE0, or the end of segment `i - 1`. -/
theorem stage1After_nonce (hseg : Config.nonceLen ≤ Config.segBytes m) {i : Nat} (hi : i ≤ 4) :
    (stage1After hash32 chaCha8 m ib km nonce i).nonce =
      if i = 0 then nonce
      else slice (stage1Bytes hash32 chaCha8 m ib km nonce)
        (i * Config.segBytes m - Config.nonceLen) Config.nonceLen := by
  cases i with
  | zero => exact stage1After_zero_nonce
  | succ i =>
    have hle : Config.nonceLen ≤ (i + 1) * Config.segBytes m :=
      hseg.trans (Nat.le_mul_of_pos_left _ i.succ_pos)
    rw [if_neg i.succ_ne_zero, stage1After_succ_nonce hseg,
      stage1Bytes_eq_stage1After,
      slice_stage1After_of_le hi (Nat.sub_add_cancel hle).le]

end Stage1

/-- A legal size has at least 6 words, so that a segment holds a whole nonce (R5, R107). -/
theorem nonceLen_le_segBytes {m : Nat} (hm : Config.validSize m = true) :
    Config.nonceLen ≤ Config.segBytes m := by
  obtain ⟨_, hmin, _⟩ := (validSize_iff m).mp hm
  unfold Config.nonceLen Config.segBytes Config.sizeBytes
  omega

/-! ### The statements -/

/-- Settles O28: a segment is what its step appends, under the nonce the step before it left. -/
theorem segmentsAreChained : Obligations.SegmentsAreChained := by
  intro hash32 chaCha8 m ib km nonce hseg i hi
  rw [slice_stage1Bytes_segment hi, stage1After_nonce hseg hi.le]
  rfl

/-- Settles O29: every step appends one segment, and four segments are as long as the memory. -/
theorem stageOneFillsTheScratch : Obligations.StageOneFillsTheScratch := by
  intro hash32 chaCha8 m ib km nonce
  refine ⟨?_, segBytes_four m, wordsToBytes_stage1 hash32 chaCha8 m ib km nonce,
    nonceLen_le_segBytes⟩
  rw [stage1Bytes_length, segBytes_four]

end Sys2Proof.Machine

/-!
PROOFS. The statements of 43_mixer.md about Stage 3: what one inner step reads and writes (R114 to
R118), and that every access is in range (R121).
-/

namespace Sys2Proof.Machine

/-! ### Reading one word of the scratch memory (R111) -/

theorem getElem?_eq_some_wordAt {sp : List Word} {k : Nat} (h : k < sp.length) :
    sp[k]? = some (wordAt sp k) := by
  rw [wordAt, List.getD_eq_getElem _ _ h, List.getElem?_eq_getElem h]

theorem wordAt_set_of_ne (sp : List Word) {k n : Nat} (h : n ≠ k) (v : Word) :
    wordAt (sp.set n v) k = wordAt sp k := by
  rw [wordAt, wordAt, List.getD_eq_getElem?_getD, List.getD_eq_getElem?_getD,
    List.getElem?_set_ne h]

theorem wordAt_set {sp : List Word} {k : Nat} (h : k < sp.length) (n : Nat) (v : Word) :
    wordAt (sp.set n v) k = if k = n then v else wordAt sp k := by
  split
  · next hkn => subst hkn; simp [wordAt, h]
  · next hkn => exact wordAt_set_of_ne sp (Ne.symm hkn) v

/-! ### The rolling index (R115) -/

theorem advance_lt {m : Nat} (hm : 0 < m) (r : Nat) : advance m r < m := by
  unfold advance
  split <;> omega

theorem innerStep_r_lt {m : Nat} (hm : 0 < m) (i : Nat) (st : MixState) (j : Nat) :
    (innerStep m i st j).r < m := advance_lt hm st.r

theorem innerSteps_r_lt {m : Nat} (i : Nat) (js : List Nat) {st : MixState} (hr : st.r < m) :
    (js.foldl (innerStep m i) st).r < m := by
  induction js generalizing st with
  | nil => exact hr
  | cons j js ih => exact ih (innerStep_r_lt (Nat.zero_lt_of_lt hr) i st j)

theorem outerRound_r_lt {m : Nat} (key : List Byte) {st : RoundState} (i : Nat) (hr : st.r < m) :
    (outerRound m key st i).r < m := innerSteps_r_lt i _ hr

/-! ### The write-back (R118) -/

/-- The first write of a step lies in the lower half and the second in the upper one, so the second
word is still the one from before the step. -/
theorem writeBack_eq {m j : Nat} (hj : j < m / 2) (result : Word) (sp : List Word) :
    writeBack m j result sp =
      (sp.set (m / 2 - 1 - j) (wordAt sp (m / 2 - 1 - j) ^^^ result)).set (m / 2 + j)
        (wordAt sp (m / 2 + j) ^^^
          rotr64 (wordAt sp (m / 2 - 1 - j) ^^^ result) result.toNat) := by
  have hne : m / 2 - 1 - j ≠ m / 2 + j := by omega
  simp only [writeBack, Config.half, wordAt_set_of_ne sp hne]

theorem wordAt_writeBack {m j k : Nat} {sp : List Word} (hj : j < m / 2) (hk : k < sp.length)
    (result : Word) :
    wordAt (writeBack m j result sp) k =
      if k = m / 2 - 1 - j then wordAt sp k ^^^ result
      else if k = m / 2 + j then
        wordAt sp k ^^^ rotr64 (wordAt sp (m / 2 - 1 - j) ^^^ result) result.toNat
      else wordAt sp k := by
  have hne : m / 2 - 1 - j ≠ m / 2 + j := by omega
  rw [writeBack_eq hj, wordAt_set (by rwa [List.length_set]), wordAt_set hk]
  by_cases hlo : k = m / 2 - 1 - j
  · subst hlo
    rw [if_neg hne, if_pos rfl, if_pos rfl]
  · by_cases hhi : k = m / 2 + j
    · subst hhi
      rw [if_pos rfl, if_neg hlo, if_pos rfl]
    · simp only [if_neg hlo, if_neg hhi]

/-! ### The start of an outer round (R113) -/

/-- The start value of a round with the complement and the two words undone: the first 8 bytes of the
AES round of the two words. -/
theorem le64_roundStart (m : Nat) (key : List Byte) (st : RoundState) :
    le64 (~~~ roundStart m key st ^^^
        (wordAt st.sp (st.addrA.toNat % (m / 2)) ^^^
          wordAt st.sp (m / 2 + st.addrB.toNat % (m / 2)))) =
      (aesRound (le64 (wordAt st.sp (m / 2 + st.addrB.toNat % (m / 2))) ++
        le64 (wordAt st.sp (st.addrA.toNat % (m / 2)))) key).take 8 := by
  rw [roundStart, Config.half, BitVec.not_not, BitVec.xor_assoc, BitVec.xor_self, BitVec.xor_zero,
    le64_unle64_slice (by simp)]

/-! ### The statements -/

/-- Settles O31: the operands and the rolling value are the step's own, and the words are those of
its write-back. -/
theorem innerStepWritesTwoWords : Obligations.InnerStepWritesTwoWords := by
  intro m i j st _ hlen hj _
  simp only [← rotl64_eq_rotateLeft, ← rotr64_eq_rotateRight]
  exact ⟨mixTable (mixSelect st.result (stepOperands m i j st).c) (stepOperands m i j st),
    (innerStep m i st j).result, ⟨stepOperands m i j st, rfl, rfl, rfl, rfl, rfl, rfl, rfl, rfl⟩,
    rfl, rfl, rfl, (innerStep_sp_length m i st j).trans hlen,
    fun k hk => wordAt_writeBack hj (hlen.symm ▸ hk) _⟩

/-- Settles O32: a remainder modulo `H` names a word of a half, the rolling index wraps at `M`, and no
step changes the number of words. -/
theorem stageThreeStaysInRange : Obligations.StageThreeStaysInRange := by
  intro m hm
  obtain ⟨_, hmin, _⟩ := (validSize_iff m).mp hm
  have hhalf : 0 < m / 2 := by omega
  have hread : ∀ w : Word, w.toNat % (m / 2) < m / 2 := fun w => Nat.mod_lt _ hhalf
  refine ⟨fun w r => ⟨hread w, hread _⟩, fun j hj => ⟨by omega, by omega⟩, fun sp hlen => ?_⟩
  have hword : ∀ {k : Nat}, k < m → sp[k]? = some (wordAt sp k) := fun hk =>
    getElem?_eq_some_wordAt (hlen.symm ▸ hk)
  have hlower : ∀ {k : Nat}, k < m / 2 → sp[k]? = some (wordAt sp k) := fun hk =>
    hword (by omega)
  have hupper : ∀ {k : Nat}, k < m / 2 → sp[m / 2 + k]? = some (wordAt sp (m / 2 + k)) := fun hk =>
    hword (by omega)
  refine ⟨⟨_, _, hword (by omega), hlower (by omega), rfl⟩, ?_, ?_, ?_, ?_, ?_⟩
  · rintro key st rfl
    exact ⟨_, _, hlower (hread _), hupper (hread _), le64_roundStart m key st⟩
  · rintro st i j rfl hr
    exact ⟨hlower (hread _), hupper (hread _), hword hr,
      innerStep_r_lt (by omega) i st j, (innerStep_sp_length m i st j).trans hlen⟩
  · intro j hj result
    exact ⟨_, _, hlower (by omega), hupper hj, writeBack_eq hj result sp⟩
  · rintro key st i rfl hr
    exact ⟨outerRound_r_lt key i hr, (outerRound_sp_length m key st i).trans hlen⟩
  · intro key
    exact (stage3_length m sp key).trans hlen

end Sys2Proof.Machine

/-!
PROOFS. The statements of 44_finalizer.md: HASH is EXPAND, MIXPASS and FINALIZE one after another
(R123), and its digest depends on the inputs alone (R124).
-/

namespace Sys2Proof.Machine

/-! ### From acceptance to completion (10_state.md R32) -/

/-- The state when a command that was accepted in `s` has completed. -/
def afterCommand (i : Instr) (s : State) : State := retire (effectOf i (accept i s))

theorem ready_afterCommand {s : State} (h : Ready s) (i : Instr) : Ready (afterCommand i s) :=
  ⟨rfl, (effectOf_fault i (accept i s)).trans h.2⟩

/-- What the agents plan has no part in a command. -/
theorem afterCommand_setAgenda (i : Instr) (s : State) (es : List Event) :
    afterCommand i { s with agenda := es } = { afterCommand i s with agenda := es } := by
  cases i <;> rfl

/-! ### Runs -/

theorem commandCheck_setAgenda (i : Instr) (s : State) (es : List Event) :
    commandCheck i { s with agenda := es } = commandCheck i s :=
  commandCheck_congr rfl rfl rfl rfl rfl rfl i

/-- A CMD write to a block that is ready is the acceptance, where the command's checks pass. -/
theorem step_cmd_accept {s : State} {w : Word} {i : Instr} {es : List Event} (hr : Ready s)
    (hd : decode w = some i) (hc : commandCheck i s = none)
    (ha : s.agenda = .host (.csrWrite cmdIndex w) :: es) :
    step s = .next (accept i { s with agenda := es }) := by
  have hr' : Ready { s with agenda := es } := hr
  rw [step_of_agenda_cons ha, runEvent_cmd hd hr'.1]
  exact exec_ready_accept hr' ((commandCheck_setAgenda i s es).trans hc)

/-- The unit's turn is the completion of the command in flight, where its checks pass. -/
theorem step_unit_complete {s : State} {i : Instr} {es : List Event} (hi : s.inflight = some i)
    (hc : commandCheck i s = none) (ha : s.agenda = .unit :: es) :
    step s = .next (retire (effectOf i { s with agenda := es })) := by
  have hi' : ({ s with agenda := es } : State).inflight = some i := hi
  rw [step_of_agenda_cons ha, runEvent, unitTurn_of_inflight hi']
  exact exec_complete hi' ((commandCheck_setAgenda i s es).trans hc)

theorem run_of_step {s t : State} (h : step s = .next t) (n : Nat) :
    Host.Core.run core (n + 1) s = Host.Core.run core n t := by
  have hcore : core.step s = .next t := h
  simp only [Host.Core.run, hcore]

/-- A CMD write that the block accepts and the unit's turn after it make two steps of a run. -/
theorem run_command {s : State} {w : Word} {i : Instr} (hr : Ready s) (hd : decode w = some i)
    (hc : commandCheck i s = none) (n : Nat) (es : List Event) :
    Host.Core.run core (n + 2)
        { s with agenda := .host (.csrWrite cmdIndex w) :: .unit :: es } =
      Host.Core.run core n { afterCommand i s with agenda := es } := by
  have haccept : step { s with agenda := .host (.csrWrite cmdIndex w) :: .unit :: es } =
      .next (accept i { s with agenda := .unit :: es }) :=
    step_cmd_accept hr hd ((commandCheck_setAgenda i s _).trans hc) rfl
  have hcomplete : step (accept i { s with agenda := .unit :: es }) =
      .next { afterCommand i s with agenda := es } := by
    rw [← afterCommand_setAgenda]
    exact step_unit_complete rfl ((commandCheck_congr rfl rfl rfl rfl rfl rfl i).trans hc) rfl
  exact (run_of_step haccept (n + 1)).trans (run_of_step hcomplete n)

/-! ### The three commands and the one (R123) -/

theorem scratchWords_after_expand (s : State) :
    scratchWords (afterCommand .expand s) = stage1Of s :=
  scratchWords_ofWords rfl (stage1Of_length s)

/-- MIXPASS after EXPAND lays out the words of HASH. -/
theorem mixpass_after_expand (s : State) :
    afterCommand .mixpass (afterCommand .expand s) =
      mixScratch (hashWords s) (afterCommand .expand s) := by
  rw [hashWords, ← scratchWords_after_expand]
  rfl

/-- FINALIZE writes the digest of the words that are laid out in the scratch memory. -/
theorem finalize_ofWords {s : State} {ws : List Word}
    (h : s.scratch = Memory.ofBytes 0 (wordsToBytes ws)) (hl : ws.length = s.memWords) :
    afterCommand .finalize s =
      retire (writeDigest (Config.hash32 (wordsToBytes ws)).toList (accept .finalize s)) := by
  have hbytes : scratchBytes s 0 (Config.sizeBytes s.memWords) = wordsToBytes ws :=
    scratchBytes_ofWords h hl
  rw [← hbytes]
  rfl

/-- The words that pass between the three commands through the scratch memory are those that HASH
hands on, so the one command leaves what the three leave. -/
theorem finalize_mixpass_expand (s : State) :
    afterCommand .finalize (afterCommand .mixpass (afterCommand .expand s)) =
      afterCommand .hash s := by
  rw [mixpass_after_expand]
  exact finalize_ofWords (s := mixScratch (hashWords s) (afterCommand .expand s)) rfl
    (hashWords_length s)

/-- Settles O36: each of the three commands finds the valid bits it requires, those of the scratch
memory having been set by EXPAND. -/
theorem hashIsExpandMixpassFinalize : Obligations.HashIsExpandMixpassFinalize := by
  intro s rest hm hr hinv hskv hakv
  obtain ⟨_, hmin, _⟩ := (validSize_iff s.memWords).mp hm
  have hr1 := ready_afterCommand hr .expand
  have hr2 := ready_afterCommand hr1 .mixpass
  have hspv : spv (afterCommand .expand s) = true :=
    spv_of_all_written (s := afterCommand .expand s) (Nat.zero_lt_of_lt hmin) rfl
  have hhash := run_command (w := 0x023) hr rfl (commandCheck_hash hinv hskv hakv) 0 rest
  have hexpand := run_command (w := 0x020) hr rfl (commandCheck_expand hinv hskv) 4
  have hmixpass := run_command (w := 0x021) hr1 rfl (commandCheck_mixpass hakv hspv) 2
  have hfinalize := run_command (w := 0x022) hr2 rfl (commandCheck_finalize hspv) 0 rest
  rw [finalize_mixpass_expand] at hfinalize
  exact ⟨_, hhash, (hexpand _).trans ((hmixpass _).trans hfinalize)⟩

/-! ### What the digest depends on (R124) -/

/-- The mixed words are a function of `M`, `IB`, `KM`, `NONCE0` and `AESKEY`. -/
theorem hashWords_congr {s s' : State} (hm : s.memWords = s'.memWords) (hinp : s.inp = s'.inp)
    (hsk : s.sk = s'.sk) (hlo : s.nonceLo = s'.nonceLo) (hhi : s.nonceHi = s'.nonceHi)
    (hak : s.ak = s'.ak) : hashWords s = hashWords s' := by
  simp only [hashWords, stage1Of, inputBlock, keyMaterial, nonce0, aesKey, hm, hinp, hsk, hlo, hhi,
    hak]

theorem hash_scratch (s : State) :
    (afterCommand .hash s).scratch = Memory.ofBytes 0 (wordsToBytes (hashWords s)) := rfl

/-- The four digest registers are those of the mixed words' digest, whatever state they are written
to. -/
theorem hash_dg (s u : State) :
    (afterCommand .hash s).dg =
      (writeDigest (Config.hash32 (wordsToBytes (hashWords s))).toList u).dg := rfl

/-- Where HASH is next and its checks pass, two steps complete it. -/
theorem run_hash {s t : State} {rest : List Event} (hr : Ready s) (hinv : inv s = true)
    (hskv : skv s = true) (hakv : akv s = true)
    (ha : s.agenda = .host (.csrWrite cmdIndex 0x023) :: .unit :: rest)
    (h : Host.Core.run core 2 s = .next t) :
    t = { afterCommand .hash s with agenda := rest } := by
  have hrun := run_command (w := 0x023) hr rfl (commandCheck_hash hinv hskv hakv) 0 rest
  rw [← ha] at hrun
  exact Host.Outcome.next.inj (h.symm.trans hrun)

/-- Settles O37: the digest and the scratch memory that HASH leaves are made of the mixed words. -/
theorem digestDependsOnInputsOnly : Obligations.DigestDependsOnInputsOnly := by
  intro s s' t t' rest rest' hm hinp hsk hlo hhi hak hr hr' hinv hskv hakv hinv' hskv' hakv' ha ha'
    ht ht'
  have hwords : hashWords s = hashWords s' := hashWords_congr hm hinp hsk hlo hhi hak
  obtain rfl := run_hash hr hinv hskv hakv ha ht
  obtain rfl := run_hash hr' hinv' hskv' hakv' ha' ht'
  refine ⟨?_, ?_, rfl, rfl⟩
  · calc (afterCommand .hash s).dg
        = (writeDigest (Config.hash32 (wordsToBytes (hashWords s))).toList s').dg := hash_dg s s'
      _ = (afterCommand .hash s').dg := by rw [hwords, hash_dg s' s']
  · calc (afterCommand .hash s).scratch
        = Memory.ofBytes 0 (wordsToBytes (hashWords s')) := by rw [hash_scratch, hwords]
      _ = (afterCommand .hash s').scratch := (hash_scratch s').symm

end Sys2Proof.Machine

/-!
PROOFS. The statements of 60_exceptions.md: the checks of a submission in their order (R134 to R139),
what a recorded fault stops (R140 to R142), a busy block (R137) and a quiescent one (R149); and that
the host's accesses while a command runs change none of its results (70_reset_and_hazards.md R156).
-/

namespace Sys2Proof.Machine

/-! ### When a command's own check gives a code (R134 to R136) -/

theorem commandCheck_eq_cfgInvalid_iff (i : Instr) (s : State) :
    commandCheck i s = some .cfgInvalid ↔
      (i = .expand ∧ (inv s = false ∨ skv s = false)) ∨
      (i = .mixpass ∧ (spv s = false ∨ akv s = false)) ∨
      (i = .finalize ∧ spv s = false) ∨
      (i = .hash ∧ (inv s = false ∨ skv s = false ∨ akv s = false)) := by
  constructor
  · intro h
    rcases commandCheck_cases i s with hc | ⟨_, hi⟩ | ⟨hc, _⟩ | ⟨hc, _⟩
    · simp [h] at hc
    · simpa only [not_and_or, Bool.not_eq_true, or_comm (a := akv s = false)] using hi
    · simp [h] at hc
    · simp [h] at hc
  · rintro (⟨rfl, h⟩ | ⟨rfl, h⟩ | ⟨rfl, h⟩ | ⟨rfl, h⟩)
    · rcases h with h | h <;> simp [commandCheck, h]
    · rcases h with h | h <;> simp [commandCheck, h]
    · simp [commandCheck, h]
    · rcases h with h | h | h <;> simp [commandCheck, h]

theorem commandCheck_eq_divZero_iff (i : Instr) (s : State) :
    commandCheck i s = some .divZero ↔
      ((i = .div128 ∨ i = .udiv) ∧ x2 s = 0) ∨ (i = .divw ∧ x2 s = 0 ∧ x3 s = 0) := by
  constructor
  · intro h
    rcases commandCheck_cases i s with hc | ⟨hc, _⟩ | ⟨_, hi⟩ | ⟨hc, _⟩
    · simp [h] at hc
    · simp [h] at hc
    · rw [or_and_right, or_assoc]; exact hi
    · simp [h] at hc
  · rintro (⟨rfl | rfl, h⟩ | ⟨rfl, h2, h3⟩)
    · simp [commandCheck, h]
    · simp [commandCheck, h]
    · simp [commandCheck, h2, h3]

theorem commandCheck_eq_divOverflow_iff (i : Instr) (s : State) :
    commandCheck i s = some .divOverflow ↔ i = .div128 ∧ x2 s ≠ 0 ∧ x2 s ≤ x0 s := by
  constructor
  · intro h
    rcases commandCheck_cases i s with hc | ⟨hc, _⟩ | ⟨hc, _⟩ | ⟨_, hi⟩
    · simp [h] at hc
    · simp [h] at hc
    · simp [h] at hc
    · exact hi
  · rintro ⟨rfl, h2, h0⟩
    rw [commandCheck, if_neg h2, if_pos h0]

/-! ### Submission through CMD, said once (R139) -/

/-- On an idle block a CMD write is the submission of its word. -/
theorem csrWrite_cmd_submit {s : State} (h : s.inflight = none) (w : Word) :
    csrWrite cmdIndex w s =
      .next (submit w (decode w) ((decode w).bind fun i => commandCheck i s) s) := by
  rw [csrWrite_cmd ((busy_eq_false_iff s).mpr h)]
  cases hd : decode w with
  | none => exact writeCmd_illegal hd s
  | some i =>
    obtain rfl := (decode_eq_some_iff w i).mp hd
    rw [writeCmd, hd]
    exact exec_submit (by simp [h])

/-- A faulted block drops every CMD write: a busy one has its BUSY_ACCESS lost to the first fault
(R140), an idle one stops at the second check. -/
theorem csrWrite_cmd_faulted {s : State} {f : FaultCode} (h : s.fault = some f) (w : Word) :
    csrWrite cmdIndex w s = .next s := by
  cases hi : s.inflight with
  | some i =>
    rw [csrWrite_of_busy (busy_of_inflight hi) (by simp), raise_of_some h]
  | none =>
    rw [csrWrite_cmd_submit hi]
    simp [submit, busy, faulted, hi, h]

/-- A command that does not pass its check leaves the record and nothing else (R142). -/
theorem exec_ready_fault {i : Instr} {s : State} {f : FaultCode} (h : Ready s)
    (hc : commandCheck i s = some f) :
    exec i s = .next { s with fault := some f, errInfo := commandInfo (encode i) s } := by
  have ⟨hidle, hfault⟩ := h
  rw [exec_submit (by simp [hidle]), hc, submit_fault h, raise_of_none hfault]

/-- The code a command newly records is BUSY_ACCESS or the one its check gives. -/
theorem exec_next_fault {i : Instr} {s t : State} {f : FaultCode} (hs : s.fault = none)
    (h : exec i s = .next t) (ht : t.fault = some f) :
    f = .busyAccess ∨ commandCheck i s = some f := by
  by_cases hi : s.inflight = some i
  · obtain ⟨_, rfl⟩ := exec_next_inflight hi h
    simp [hs] at ht
  · rw [exec_submit hi] at h
    cases h
    rcases submit_cases (encode i) (some i) (commandCheck i s) s with
      ⟨_, e⟩ | ⟨_, hf, _⟩ | ⟨_, _, ⟨hn, _⟩ | ⟨_, g, _, hg, e⟩ | ⟨_, _, _, e⟩⟩
    · left; simpa [e, hs, eq_comm] using ht
    · simp [faulted, hs] at hf
    · cases hn
    · right; rw [hg]; simpa [e, hs] using ht
    · simp [e, hs] at ht

/-! ### What an event does to the fault record (R131, R140) -/

/-- From `s` to `t` the fault record is kept, or a first fault is recorded and the command in flight
and DONE are left alone. -/
def RecordsOnce (s t : State) : Prop :=
  (t.fault = s.fault ∧ t.errInfo = s.errInfo) ∨
    (s.fault = none ∧ t.inflight = s.inflight ∧ t.done = s.done)

theorem recordsOnce_raise (f : FaultCode) (w : Word) (s : State) :
    RecordsOnce s (raise f w s) := by
  cases hf : s.fault with
  | none => exact .inr ⟨hf, raise_inflight s f w, raise_done s f w⟩
  | some g => rw [raise_of_some hf]; exact .inl ⟨rfl, rfl⟩

theorem RecordsOnce.deliver {s t : State} (h : RecordsOnce s t) (v : Word) :
    RecordsOnce s (deliver v t) := h

theorem recordsOnce_submit (w : Word) (cmd : Option Instr) (check : Option FaultCode) (s : State) :
    RecordsOnce s (submit w cmd check s) := by
  rcases submit_cases w cmd check s with
    ⟨_, e⟩ | ⟨_, _, e⟩ | ⟨_, _, ⟨_, e⟩ | ⟨_, _, _, _, e⟩ | ⟨_, _, _, e⟩⟩ <;> rw [e]
  · exact recordsOnce_raise _ _ s
  · exact .inl ⟨rfl, rfl⟩
  · exact recordsOnce_raise _ _ s
  · exact recordsOnce_raise _ _ s
  · exact .inl ⟨rfl, rfl⟩

theorem recordsOnce_csrRead (idx : BitVec 7) (s : State) : RecordsOnce s (csrRead idx s) := by
  rcases csrRead_cases idx s with ⟨_, _, e⟩ | ⟨_, e⟩ <;> rw [e]
  · exact (recordsOnce_raise _ _ s).deliver 0
  · exact .inl ⟨rfl, rfl⟩

theorem recordsOnce_csrWrite {idx : BitVec 7} {v : Word} {s t : State}
    (h : csrWrite idx v s = .next t) (hr : (Event.host (.csrWrite idx v)).isReset = false) :
    RecordsOnce s t := by
  rcases csrWrite_cases idx v s with ⟨_, _, e⟩ | ⟨hb, hc, e⟩ | ⟨hc, e⟩ | ⟨_, _, _, e⟩ <;> rw [e] at h
  · cases h; exact recordsOnce_raise _ _ s
  · obtain ⟨w, e'⟩ := writeCmd_of_idle ((busy_eq_false_iff s).mp hb) v
    rw [e'] at h; cases h
    exact recordsOnce_submit _ _ _ s
  · cases h
    have hv : v.getLsbD 0 = false := by simpa [Event.isReset, hc] using hr
    rw [writeCtrl, if_neg (ne_true_of_eq_false hv)]
    exact .inl ⟨rfl, rfl⟩
  · cases h; exact .inl ⟨storeCsr_fault s _ v, storeCsr_errInfo s _ v⟩

theorem recordsOnce_spmRead (k : BitVec 32) (s : State) : RecordsOnce s (spmRead k s) := by
  rcases spmRead_cases k s with ⟨_, e⟩ | ⟨_, _, e⟩ | ⟨_, _, _, e⟩ | ⟨_, _, _, e⟩ <;> rw [e]
  · exact (recordsOnce_raise _ _ s).deliver 0
  · exact (recordsOnce_raise _ _ s).deliver 0
  · exact .inl ⟨rfl, rfl⟩
  · exact .inl ⟨rfl, rfl⟩

theorem recordsOnce_spmWrite (k : BitVec 32) (v : Word) (s : State) :
    RecordsOnce s (spmWrite k v s) := by
  rcases spmWrite_cases k v s with ⟨_, e⟩ | ⟨_, _, e⟩ | ⟨_, _, e⟩ <;> rw [e]
  · exact recordsOnce_raise _ _ s
  · exact recordsOnce_raise _ _ s
  · exact .inl ⟨rfl, rfl⟩

/-- Short of a reset, every event records a fault once: a completion keeps the record. -/
theorem recordsOnce_runEvent {e : Event} {s t : State} (h : runEvent e s = .next t)
    (hr : e.isReset = false) : RecordsOnce s t := by
  cases e with
  | hardwareReset => cases hr
  | unit =>
    rcases unitTurn_next_cases h with ⟨_, rfl⟩ | ⟨i, _, rfl⟩
    · exact .inl ⟨rfl, rfl⟩
    · exact .inl ⟨effectOf_fault i s, effectOf_errInfo i s⟩
  | host a =>
    cases a with
    | csrRead idx => cases h; exact recordsOnce_csrRead idx s
    | csrWrite idx v => exact recordsOnce_csrWrite h hr
    | spmRead k => cases h; exact recordsOnce_spmRead k s
    | spmWrite k v => cases h; exact recordsOnce_spmWrite k v s

/-- An event that records a fault is no reset, and changes neither the command in flight nor DONE. -/
theorem runEvent_records {e : Event} {s t : State} (h : runEvent e s = .next t)
    (hs : s.fault = none) (ht : t.fault ≠ none) : t.inflight = s.inflight ∧ t.done = s.done := by
  cases hr : e.isReset with
  | true =>
    obtain ⟨cells, e'⟩ := runEvent_reset hr s
    rw [e'] at h; cases h
    exact absurd (clearedState_fault s cells) ht
  | false =>
    rcases recordsOnce_runEvent h hr with ⟨hf, _⟩ | ⟨_, hkeep⟩
    · exact absurd (hf.trans hs) ht
    · exact hkeep

/-! ### Scratch accesses to a busy block (R137; 20_memory.md R43, R44) -/

theorem spmRead_of_busy {s : State} (h : busy s = true) (k : BitVec 32) :
    spmRead k s = deliver 0 (raise .busyAccess (spmInfo false k) s) := if_pos h

theorem spmWrite_of_busy {s : State} (h : busy s = true) (k : BitVec 32) (v : Word) :
    spmWrite k v s = raise .busyAccess (spmInfo true k) s := if_pos h

/-! ### Submission: the statements -/

/-- Settles O6: the first two checks are of the block, the third of the word, and the others are the
command's own. -/
theorem submissionChecksInOrder : Obligations.SubmissionChecksInOrder := by
  intro w s
  refine ⟨fun hb => csrWrite_of_busy hb (by simp) w, fun _ hf => ?_, fun hr hd => ?_,
    fun i hr hd => ?_, fun k v hb _ => ⟨spmWrite_of_busy hb k v, spmRead_of_busy hb k⟩,
    fun e t => runEvent_records⟩
  · obtain ⟨f, hf⟩ := Option.isSome_iff_exists.mp hf
    exact csrWrite_cmd_faulted hf w
  · rw [csrWrite_cmd_submit hr.1, hd, submit_illegal hr]
  · rw [csrWrite_cmd_submit hr.1, hd, Option.bind_some]
    split_ifs with hcfg hzero hover
    · rw [(commandCheck_eq_cfgInvalid_iff i s).mpr hcfg, submit_fault hr]
    · rw [(commandCheck_eq_divZero_iff i s).mpr hzero, submit_fault hr]
    · have hne : x2 s ≠ 0 := fun h => hzero (.inl ⟨.inl hover.1, h⟩)
      rw [(commandCheck_eq_divOverflow_iff i s).mpr ⟨hover.1, hne, hover.2⟩, submit_fault hr]
    · have hpass : commandCheck i s = none := by
        rcases commandCheck_cases i s with hc | ⟨hc, _⟩ | ⟨hc, _⟩ | ⟨_, hi, _, hle⟩
        · exact hc
        · exact absurd ((commandCheck_eq_cfgInvalid_iff i s).mp hc) hcfg
        · exact absurd ((commandCheck_eq_divZero_iff i s).mp hc) hzero
        · exact absurd ⟨hi, hle⟩ hover
      rw [hpass, submit_accept hr]

/-- Settles O7: a submission to a block that is ready records a fault of its word or accepts it, and a
completion step writes no record. -/
theorem commandFaultIsPrecise : Obligations.CommandFaultIsPrecise := by
  refine ⟨fun w s t hr h ht => ?_, fun i s t hi h => ?_⟩
  · have ⟨hidle, hfault⟩ := hr
    have hraise (f : FaultCode) : raise f (commandInfo w s) s =
        { s with fault := (raise f (commandInfo w s) s).fault, errInfo := commandInfo w s } := by
      rw [raise_of_none hfault]
    rw [csrWrite_cmd_submit hidle] at h
    cases h
    rcases submit_cases w (decode w) ((decode w).bind fun i => commandCheck i s) s with
      ⟨hb, _⟩ | ⟨_, hf, _⟩ | ⟨_, _, ⟨_, e⟩ | ⟨_, f, _, _, e⟩ | ⟨i, _, _, e⟩⟩
    · simp [busy, hidle] at hb
    · simp [faulted, hfault] at hf
    · rw [e]; exact hraise .illegalCmd
    · rw [e]; exact hraise f
    · rw [e] at ht; exact absurd hfault ht
  · obtain ⟨_, rfl⟩ := exec_next_inflight hi h
    exact ⟨effectOf_fault i s, effectOf_errInfo i s⟩

/-- Settles O8: a missing valid bit is what the check of the command gives CFG_INVALID for, and the
record holds the valid bits and the command's OPC. -/
theorem pipelineRequiresInputs : Obligations.PipelineRequiresInputs := by
  intro s hr
  refine ⟨fun i hmissing => ?_, fun i hready => ?_⟩
  · have hc : commandCheck i s = some .cfgInvalid :=
      (commandCheck_eq_cfgInvalid_iff i s).mpr <| by
        simpa only [not_and_or, Bool.not_eq_true] using hmissing
    obtain ⟨hopc, _, _, haux, _⟩ := commandInfo_fields (encode i) s
    exact ⟨_, exec_ready_fault hr hc, rfl, haux,
      hopc.trans (congrArg CmdFields.opc (ofWord_encode i))⟩
  · have hc : commandCheck i s = none := by
      rcases hready with ⟨rfl, hi, hs⟩ | ⟨rfl, hp, ha⟩ | ⟨rfl, hp⟩ | ⟨rfl, hi, hs, ha⟩
      · exact commandCheck_expand hi hs
      · exact commandCheck_mixpass ha hp
      · exact commandCheck_finalize hp
      · exact commandCheck_hash hi hs ha
    exact exec_ready_accept hr hc

/-- Settles O9: the check of a division gives the two codes exactly for these operands, and a code that
a command records comes from its check. -/
theorem divisionFaults : Obligations.DivisionFaults := by
  intro s
  refine ⟨fun hr h2 => ⟨?_, ?_⟩, fun hr h2 h3 => ?_, fun hr h2 h0 => ?_, fun i t hs h ht => ?_,
    fun i t hs h ht => ?_⟩
  · exact exec_ready_fault hr ((commandCheck_eq_divZero_iff _ s).mpr (.inl ⟨.inl rfl, h2⟩))
  · exact exec_ready_fault hr ((commandCheck_eq_divZero_iff _ s).mpr (.inl ⟨.inr rfl, h2⟩))
  · exact exec_ready_fault hr ((commandCheck_eq_divZero_iff _ s).mpr (.inr ⟨rfl, h2, h3⟩))
  · exact exec_ready_fault hr ((commandCheck_eq_divOverflow_iff _ s).mpr ⟨rfl, h2, h0⟩)
  · have hc := (exec_next_fault hs h ht).resolve_left (by decide)
    simpa only [or_and_right, or_assoc] using (commandCheck_eq_divZero_iff i s).mp hc
  · have hc := (exec_next_fault hs h ht).resolve_left (by decide)
    exact (commandCheck_eq_divOverflow_iff i s).mp hc

/-! ### A faulted block: the statements -/

/-- Settles O10: no event records a second fault, so an access that would raise one does nothing. -/
theorem firstFaultWins : Obligations.FirstFaultWins := by
  intro s f hf
  refine ⟨fun e t hr h => ?_, csrWrite_cmd_faulted hf,
    fun idx v hb => ⟨fun hread => ?_, fun hc => ?_⟩, fun k v hrefused => ?_⟩
  · rcases recordsOnce_runEvent h hr with ⟨hfault, hinfo⟩ | ⟨hnone, _⟩
    · exact ⟨hfault.trans hf, hinfo⟩
    · simp [hf] at hnone
  · rw [csrRead_of_busy hb hread, raise_of_some hf]
  · rw [csrWrite_of_busy hb hc, raise_of_some hf]
  · cases hb : busy s with
    | true =>
      exact ⟨by rw [spmRead_of_busy hb, raise_of_some hf],
        by rw [spmWrite_of_busy hb, raise_of_some hf]⟩
    | false =>
      have hk : s.memWords ≤ k.toNat := hrefused.resolve_left (by simp [hb])
      exact ⟨by rw [spmRead_out_of_range hb hk, raise_of_some hf],
        by rw [spmWrite_out_of_range hb hk, raise_of_some hf]⟩

/-- The unit's turn completes the command in flight, where its checks pass. -/
theorem unitTurn_complete {i : Instr} {s : State} (hi : s.inflight = some i)
    (hc : commandCheck i s = none) : unitTurn s = .next (retire (effectOf i s)) :=
  (unitTurn_of_inflight hi).trans (exec_complete hi hc)

/-- Settles O11: no other access looks at the fault, and neither does the completion step. -/
theorem faultedBlockDropsCommands : Obligations.FaultedBlockDropsCommands := by
  intro s hs
  obtain ⟨f, hf⟩ := Option.isSome_iff_exists.mp hs
  refine ⟨csrWrite_cmd_faulted hf, fun idx h => ?_, fun idx v h => csrWrite_ctrl h v s,
    fun hb idx v hm hc => csrWrite_of_idle hb hm hc v, fun hb k v hk => ?_, fun i hi hc => ?_⟩
  · rcases h with hb | hr
    · exact csrRead_of_idle hb idx
    · exact csrRead_of_readable hr s
  · exact ⟨spmRead_written hb hk, spmWrite_in_range hb hk v⟩
  · exact ⟨_, unitTurn_complete hi hc, rfl, rfl, effectOf_fault i s⟩

/-! ### An access that a busy block refuses (R137) -/

/-- The ERRINFO of a host-access fault (10_state.md R24). -/
def accessInfo (a : Access) : Word :=
  match a with
  | .csrRead idx => csrInfo false idx
  | .csrWrite idx _ => csrInfo true idx
  | .spmRead k => spmInfo false k
  | .spmWrite k _ => spmInfo true k

/-- What the host has read once the access is refused: a read returns 0. -/
def returnedByRefusal (a : Access) (vs : List Word) : List Word :=
  match a with
  | .csrRead _ => 0 :: vs
  | .csrWrite _ _ => vs
  | .spmRead _ => 0 :: vs
  | .spmWrite _ _ => vs

/-- The state a refused access leaves. -/
def refuse (a : Access) (s : State) : State :=
  { raise .busyAccess (accessInfo a) s with returned := returnedByRefusal a s.returned }

/-- A busy block refuses every access but those of R154. -/
theorem hostAccess_refused {a : Access} {s : State} (hb : busy s = true)
    (ha : allowedWhileBusy a = false) : hostAccess a s = .next (refuse a s) := by
  cases a with
  | csrRead idx =>
    rw [hostAccess, csrRead_of_busy hb ha, deliver, raise_returned]; rfl
  | csrWrite idx v =>
    have hc : csrAt idx ≠ .ctrl := by simpa [allowedWhileBusy] using ha
    rw [hostAccess, csrWrite_of_busy hb hc, refuse, returnedByRefusal, ← raise_returned]; rfl
  | spmRead k =>
    rw [hostAccess, spmRead_of_busy hb, deliver, raise_returned]; rfl
  | spmWrite k v =>
    rw [hostAccess, spmWrite_of_busy hb, refuse, returnedByRefusal, ← raise_returned]; rfl

theorem refuse_eq (a : Access) (s : State) :
    refuse a s = { s with
      fault := (refuse a s).fault
      errInfo := (refuse a s).errInfo
      returned := (refuse a s).returned } := by
  cases hf : s.fault with
  | none => simp only [refuse, raise_of_none hf]
  | some f => simp only [refuse, raise_of_some hf]

/-- Settles O48: the refusal leaves the command in flight and its inputs, so it completes. -/
theorem busyAccessFaults : Obligations.BusyAccessFaults := by
  intro a s hb ha
  refine ⟨refuse a s, hostAccess_refused hb ha, refuse_eq a s, fun hf => ?_, fun hf => ?_, ?_,
    fun i hi hc => ?_⟩
  · rw [refuse, raise_of_none hf]
    cases a <;> exact ⟨rfl, rfl⟩
  · obtain ⟨f, hf⟩ := Option.ne_none_iff_exists'.mp hf
    rw [refuse, raise_of_some hf]
    exact ⟨rfl, rfl⟩
  · cases a <;> rfl
  · have hinflight : (refuse a s).inflight = some i := by rw [refuse_eq]; exact hi
    have hcheck : commandCheck i (refuse a s) = none := by
      rw [refuse_eq]
      exact (commandCheck_congr rfl rfl rfl rfl rfl rfl i).trans hc
    exact ⟨_, unitTurn_complete hinflight hcheck, rfl, rfl⟩

/-! ### Host accesses while a command runs (70_reset_and_hazards.md R154, R156) -/

/-- The data of `s` under the control state of `c`: what no command reads or writes, and what the host
may change while one runs. -/
def withControl (c s : State) : State :=
  { s with
    ie := c.ie
    done := c.done
    fault := c.fault
    errInfo := c.errInfo
    inflight := c.inflight
    agenda := c.agenda
    returned := c.returned
    freeReads := c.freeReads }

/-- A command's effect is on the data alone. -/
theorem effectOf_withControl (i : Instr) (c s : State) :
    effectOf i (withControl c s) = withControl c (effectOf i s) := by
  cases i <;> rfl

theorem commandCheck_withControl (i : Instr) (c s : State) :
    commandCheck i (withControl c s) = commandCheck i s :=
  commandCheck_congr rfl rfl rfl rfl rfl rfl i

/-- States that agree on the data differ in the control state only. -/
theorem KeepsData.eq_withControl {s t : State} (h : KeepsData s t)
    (hm : t.memWords = s.memWords) : t = withControl t s := by
  simp only [withControl, ← h.x, ← h.y, ← h.dgv, ← h.dg, ← h.nonceLo, ← h.nonceHi, ← h.inp, ← h.sk,
    ← h.ak, ← h.inW, ← h.skW, ← h.akW, ← h.scratch, ← h.spW, ← hm]

/-- A busy block answers every access with a next state: it submits nothing. -/
theorem hostAccess_of_busy {s : State} (hb : busy s = true) (a : Access) :
    ∃ t, hostAccess a s = .next t := by
  cases a with
  | csrWrite idx v =>
    by_cases hc : csrAt idx = .ctrl
    · exact ⟨_, csrWrite_ctrl hc v s⟩
    · exact ⟨_, csrWrite_of_busy hb hc v⟩
  | _ => exact ⟨_, rfl⟩

/-- An event of the host, short of a reset, leaves a busy block its data and its command. -/
theorem runEvent_plainHost_of_busy {e : Event} {s : State} (he : e.isPlainHost = true)
    (hb : busy s = true) :
    ∃ t, runEvent e s = .next t ∧ t.inflight = s.inflight ∧ t.agenda = s.agenda ∧
      t = withControl t s := by
  cases e with
  | unit => cases he
  | hardwareReset => cases he
  | host a =>
    have hr : (Event.host a).isReset = false := by simpa [Event.isPlainHost] using he
    obtain ⟨t, h⟩ := hostAccess_of_busy hb a
    rcases hostAccess_cases h hr with ⟨_, _, _, hidle, _⟩ | ⟨_, _, _, hidle, _⟩ | ⟨_, hk, hi⟩
    · simp [hb] at hidle
    · simp [hb] at hidle
    · exact ⟨t, h, hi hb, hk.agenda, hk.eq_withControl (hostAccess_next_memWords h)⟩

/-- A run over host accesses and the unit's turn after them ends in the completion of the command
that was in flight, on the data it was accepted with. -/
theorem run_plainHost_unit {i : Instr} {rest : List Event} (es : List Event) {s : State}
    (hi : s.inflight = some i) (hc : commandCheck i s = none) (ha : s.agenda = es ++ .unit :: rest)
    (hp : ∀ e ∈ es, e.isPlainHost = true) :
    ∃ c, c.agenda = rest ∧ Host.Core.run core (es.length + 1) s =
      .next (retire (effectOf i (withControl c s))) := by
  induction es generalizing s with
  | nil => exact ⟨{ s with agenda := rest }, rfl, run_of_step (step_unit_complete hi hc ha) 0⟩
  | cons e es ih =>
    obtain ⟨he, hes⟩ := List.forall_mem_cons.mp hp
    obtain ⟨t, ht, hti, hta, hdata⟩ :=
      runEvent_plainHost_of_busy (s := { s with agenda := es ++ .unit :: rest }) he
        (busy_of_inflight hi)
    have hdata' : t = withControl t s := hdata
    have hct : commandCheck i t = none := by
      rw [hdata', commandCheck_withControl]; exact hc
    obtain ⟨c, hcr, hrun⟩ := ih (hti.trans hi) hct hta hes
    have hctrl : withControl c t = withControl c s := by rw [hdata']; rfl
    rw [hctrl] at hrun
    exact ⟨c, hcr, (run_of_step ((step_of_agenda_cons ha).trans ht) _).trans hrun⟩

/-- Settles O38: the completion comes with another control state and on the same data. -/
theorem latencyDoesNotMatter : Obligations.LatencyDoesNotMatter := by
  intro s t i es rest hi ha hp h
  obtain ⟨hc, rfl⟩ := exec_next_inflight hi h
  obtain ⟨c, hcr, hrun⟩ := run_plainHost_unit es hi hc ha hp
  rw [effectOf_withControl] at hrun
  exact ⟨_, hrun, rfl, rfl, rfl, rfl, rfl, rfl, rfl, rfl, rfl, rfl, rfl, rfl, rfl, hcr⟩

/-! ### A quiescent block (R149) -/

/-- Settles O5: with no event planned or the unit's turn next, the step is that turn. -/
theorem quiescentBlockStays : Obligations.QuiescentBlockStays := by
  intro s hi
  refine ⟨unitTurn_of_idle hi, fun ha => ?_, fun rest ha => ?_⟩
  · rw [step_of_agenda_nil ha, unitTurn_of_idle hi]
  · exact (step_of_agenda_cons ha).trans (unitTurn_of_idle hi)

end Sys2Proof.Machine

/-!
PROOFS. The statements of 70_reset_and_hazards.md: what the two resets do (R150 to R152), and that the
block comes to rest once the planned events are used up (R159, R160).
-/

namespace Sys2Proof.Machine

/-! ### The resets (R150, R151, R152) -/

theorem runEvent_hardwareReset (s : State) : runEvent .hardwareReset s = .next (hardReset s) := rfl

/-- A CTRL write with SRST is the soft reset, on a busy block too. -/
theorem hostAccess_srst {v : Word} (hv : v.getLsbD 0 = true) (s : State) :
    hostAccess (.csrWrite (csrIndex .ctrl) v) s = .next (softReset s) := by
  rw [hostAccess, csrWrite_ctrl (csrAt_csrIndex .ctrl), writeCtrl, if_pos hv]

/-- After a reset no bit of STATUS is set, whatever scratch cells it keeps. -/
@[simp] theorem status_clearedState (cells : List Host.Cell) (s : State) :
    status (clearedState cells s) = 0 := by
  simp [status, busy, faulted, fcode, irq, inv, skv, akv, spv]

/-- Settles O57: both resets are `clearedState`, with and without the scratch cells. -/
theorem resetEffect : Obligations.ResetEffect := by
  intro s
  refine ⟨⟨hardReset s, runEvent_hardwareReset s, rfl⟩, fun v hv => ?_⟩
  exact ⟨softReset s, hostAccess_srst hv s, rfl, status_clearedState s.scratch s,
    softReset_inflight s⟩

/-! ### No event changes the plans, and a step uses up one of them (R14) -/

theorem hostAccess_next_agenda {a : Access} {s t : State} (h : hostAccess a s = .next t)
    (hr : (Event.host a).isReset = false) : t.agenda = s.agenda := by
  obtain ⟨_, _, _, hagenda, _⟩ := hostNeverWritesResults a s t h hr
  exact hagenda

theorem unitTurn_next_agenda {s t : State} (h : unitTurn s = .next t) : t.agenda = s.agenda := by
  rcases unitTurn_next_cases h with ⟨_, rfl⟩ | ⟨i, _, rfl⟩
  · rfl
  · exact effectOf_agenda i s

theorem runEvent_next_agenda {e : Event} {s t : State} (h : runEvent e s = .next t) :
    t.agenda = s.agenda := by
  cases hr : e.isReset with
  | true =>
    obtain ⟨cells, hreset⟩ := runEvent_reset hr s
    rw [hreset] at h; cases h
    exact clearedState_agenda s cells
  | false =>
    cases e with
    | host a => exact hostAccess_next_agenda h hr
    | unit => exact unitTurn_next_agenda h
    | hardwareReset => cases hr

theorem step_next_agenda_of_cons {e : Event} {es : List Event} {s t : State}
    (ha : s.agenda = e :: es) (h : step s = .next t) : t.agenda = es :=
  runEvent_next_agenda ((step_of_agenda_cons ha).symm.trans h)

/-! ### The run to rest (R159, R160) -/

/-- The unit's turn leaves nothing in flight: it completes the command, or there was none. -/
theorem unitTurn_next_idle {s t : State} (h : unitTurn s = .next t) : t.inflight = none := by
  rcases unitTurn_next_cases h with ⟨hidle, rfl⟩ | ⟨_, _, rfl⟩
  · exact hidle
  · rfl

/-- With nothing planned, one step is enough. -/
theorem step_comes_to_rest {s : State} (h : BlockInv s) (ha : s.agenda = []) :
    ∃ t, step s = .next t ∧ t.agenda = [] ∧ t.inflight = none ∧ BlockInv t := by
  obtain ⟨t, hturn, hinv⟩ := unitTurn_keeps_blockInv h
  exact ⟨t, (step_of_agenda_nil ha).trans hturn, (unitTurn_next_agenda hturn).trans ha,
    unitTurn_next_idle hturn, hinv⟩

/-- Settles O60, by induction on the planned events: each step uses up one and keeps the invariant, and
the step after the last is the unit's turn. -/
theorem blockComesToRest : Obligations.BlockComesToRest := by
  intro s h
  induction ha : s.agenda generalizing s with
  | nil =>
    obtain ⟨t, hstep, hrest⟩ := step_comes_to_rest h ha
    exact ⟨t, run_of_step hstep 0, hrest⟩
  | cons e es ih =>
    obtain ⟨u, hstep, hinv⟩ := stepKeepsInv s h
    obtain ⟨t, hrun, hrest⟩ := ih u hinv (step_next_agenda_of_cons ha hstep)
    exact ⟨t, (run_of_step hstep _).trans hrun, hrest⟩

end Sys2Proof.Machine
